-- ==== Sys2Proof/Word.lean ====
section
/-! DEFINITION. The word types of the block (`00_scope.md` R6 parameter `W`, R9; `20_memory.md` R44, R47). -/

namespace Sys2Proof

/-- A register, a memory word or the data of a host transaction: 32 bits, unsigned (R6 `W`, R9). -/
abbrev Word := BitVec 32

/-- One byte of the byte view of the address space (R47). -/
abbrev Byte := BitVec 8

/-- A byte address on the host port: 16 bits (R44). -/
abbrev Addr := BitVec 16

end Sys2Proof
end

