-- ==== Sys2Proof/Config.lean ====
section
/-! DEFINITION. The parameters of the hardware (`00_scope.md` R6, R7) and the one free value of the model. What is
here is fixed for a machine and is not state (`10_state.md` R20). -/

namespace Sys2Proof.Config

/-- A "Modulus descriptor": the pair (q, max_log2_n) of R8. -/
structure ModEntry where
  q : Nat
  maxLog : Nat
  deriving DecidableEq, Repr

/-- The stated default of the parameter `CFG_TABLE`, in the source's order (R7). The parameter itself is OPEN (R6): the
machine's table is the field `Machine.State.cfgTable`, of which this is the value in `Machine.State.reset` (log entry 2). -/
def cfgTable : List ModEntry :=
  [⟨12289, 11⟩, ⟨8380417, 9⟩, ⟨2013265921, 9⟩, ⟨2130706433, 9⟩, ⟨2147483647, 9⟩]

/-- `LOGN_MAX` (R6): the largest max_log2_n the buffers can hold. -/
def lognMax : Nat := 11

/-- `NMAX` (R6): the depth in words of each of the six memories. -/
def nmax : Nat := 2048

/-- `LAZY_Q` (R6): the only modulus the lazy path accepts. -/
def lazyQ : Nat := 12289

/-- `LAZY_BITS` (R6): every lazy value is below 2 to this power. -/
def lazyBits : Nat := 256

/-- `LAZY_SHIFT(l)` (R6): the shift of the multiple of q used at stage `l`, the first stage being 0. -/
def lazyShift (l : Nat) : Nat := 15 * l + 14

/-- `MERS_Q` (R6): the modulus with the half-splitting multiplier. -/
def mersQ : Nat := 2147483647

/-- `ID_VALUE` (R6, R22): the identification word. -/
def idValue : Word := 0x53464E31#32

/-- FREE VALUE (log entry 3). What a byte of the six memories reads as when nothing has written it since the last
reset: "each word holds some 32-bit value, the same at every read until the word is written" (`10_state.md` R43,
`93_implementation_defined.md` U12). The first argument is the number of resets so far, so that nothing relates the
contents before and after a reset (`70_reset_and_hazards.md` R139); the second is the byte address. -/
opaque unwrittenByte : Nat → Nat → Byte

end Sys2Proof.Config
end

