-- ==== Sys2Proof/Syntax.lean ====
section
/-! DEFINITION. The command set SFNTT-1: one constructor per row of `spec/opcode_table.json` (`30_encoding.md` R62). -/

namespace Sys2Proof

/-- A command. The only immediate is LOGN, the base-2 logarithm of the coefficient-form length; it stands in the six
transform commands and nowhere else (R61). All other operands are implicit. -/
inductive Instr where
  | nop
  | setmod
  | clrerr
  | fadd
  | fsub
  | fmul
  | finv
  | fsqrt
  | f2add
  | f2sub
  | f2mul
  | f2inv
  | f2sqrt
  | f2neg
  | ntti (logn : Nat)
  | intti (logn : Nat)
  | nttil (logn : Nat)
  | inttil (logn : Nat)
  | nttr (logn : Nat)
  | inttr (logn : Nat)
  deriving DecidableEq, Repr

end Sys2Proof
end

