-- ==== Sys2Proof/WellFormed.lean ====
section
/-! DEFINITION. Which terms of `Instr` have an encoding: LOGN is "a 4-bit unsigned field" and "every value 0 to 15
decodes" (`30_encoding.md` R61). Whether the length is allowed is no matter of form (`60_exceptions.md` R130). -/

namespace Sys2Proof

/-- A LOGN value fits its four-bit field. -/
def lognFits (logn : Nat) : Bool := decide (logn < 16)

/-- The command has an encoding. -/
def Instr.wf : Instr → Bool
  | .nop => true
  | .setmod => true
  | .clrerr => true
  | .fadd => true
  | .fsub => true
  | .fmul => true
  | .finv => true
  | .fsqrt => true
  | .f2add => true
  | .f2sub => true
  | .f2mul => true
  | .f2inv => true
  | .f2sqrt => true
  | .f2neg => true
  | .ntti logn => lognFits logn
  | .intti logn => lognFits logn
  | .nttil logn => lognFits logn
  | .inttil logn => lognFits logn
  | .nttr logn => lognFits logn
  | .inttr logn => lognFits logn

end Sys2Proof
end

