-- ==== Sys2Proof/Decode.lean ====
section
/-! DEFINITION. Decoding of the command word, total on every 32-bit word, and its inverse, the encoder
(`30_encoding.md` R60 to R63, R66). The block moves whole words only (`20_memory.md` R46), so the decoder reads a
word, not bytes. -/

namespace Sys2Proof

/-- Why a word selects no command: the three kinds of illegal word that R63 lists. All three are answered with the one
error IllegalCommand. -/
inductive DecodeError where
  /-- Some bit of RSV (bits 31:12) is set. -/
  | reservedBits
  /-- OPC (bits 7:0) is none of the twenty opcodes. -/
  | unknownOpcode
  /-- A non-transform command with LOGN (bits 11:8) not 0. -/
  | lognNotZero
  deriving DecidableEq, Repr

/-- Field OPC, bits 7:0 (R60). -/
def opcField (w : Word) : Byte := w.extractLsb' 0 8

/-- Field LOGN, bits 11:8, zero-extended and not scaled (R60, R61). -/
def lognField (w : Word) : Nat := (w.extractLsb' 8 4).toNat

/-- Field RSV, bits 31:12 (R60). -/
def rsvField (w : Word) : BitVec 20 := w.extractLsb' 12 20

/-- A non-transform command: LOGN must be 0 (R61, R62). -/
def plainCommand (i : Instr) (logn : Nat) : Except DecodeError Instr :=
  if logn = 0 then .ok i else .error .lognNotZero

/-- The opcode map of R62. -/
def decodeFields (opc : Byte) (logn : Nat) : Except DecodeError Instr :=
  if opc = 0x00#8 then plainCommand .nop logn
  else if opc = 0x01#8 then plainCommand .setmod logn
  else if opc = 0x02#8 then plainCommand .clrerr logn
  else if opc = 0x10#8 then plainCommand .fadd logn
  else if opc = 0x11#8 then plainCommand .fsub logn
  else if opc = 0x12#8 then plainCommand .fmul logn
  else if opc = 0x13#8 then plainCommand .finv logn
  else if opc = 0x14#8 then plainCommand .fsqrt logn
  else if opc = 0x20#8 then plainCommand .f2add logn
  else if opc = 0x21#8 then plainCommand .f2sub logn
  else if opc = 0x22#8 then plainCommand .f2mul logn
  else if opc = 0x23#8 then plainCommand .f2inv logn
  else if opc = 0x24#8 then plainCommand .f2sqrt logn
  else if opc = 0x25#8 then plainCommand .f2neg logn
  else if opc = 0x30#8 then .ok (.ntti logn)
  else if opc = 0x31#8 then .ok (.intti logn)
  else if opc = 0x32#8 then .ok (.nttil logn)
  else if opc = 0x33#8 then .ok (.inttil logn)
  else if opc = 0x40#8 then .ok (.nttr logn)
  else if opc = 0x41#8 then .ok (.inttr logn)
  else .error .unknownOpcode

/-- Decode a command word: "a word w selects a command when w[31:12] = 0, w[7:0] is the command's opcode, and, for a
non-transform command, w[11:8] = 0" (R62). -/
def decode (w : Word) : Except DecodeError Instr :=
  if rsvField w = 0#20 then decodeFields (opcField w) (lognField w) else .error .reservedBits

/-- The opcode of a command (column OPC of R62). -/
def Instr.opcode : Instr → Byte
  | .nop => 0x00#8
  | .setmod => 0x01#8
  | .clrerr => 0x02#8
  | .fadd => 0x10#8
  | .fsub => 0x11#8
  | .fmul => 0x12#8
  | .finv => 0x13#8
  | .fsqrt => 0x14#8
  | .f2add => 0x20#8
  | .f2sub => 0x21#8
  | .f2mul => 0x22#8
  | .f2inv => 0x23#8
  | .f2sqrt => 0x24#8
  | .f2neg => 0x25#8
  | .ntti _ => 0x30#8
  | .intti _ => 0x31#8
  | .nttil _ => 0x32#8
  | .inttil _ => 0x33#8
  | .nttr _ => 0x40#8
  | .inttr _ => 0x41#8

/-- The value of the LOGN field of a command: its immediate, and 0 where it has none (R61). -/
def Instr.lognValue : Instr → Nat
  | .nop => 0
  | .setmod => 0
  | .clrerr => 0
  | .fadd => 0
  | .fsub => 0
  | .fmul => 0
  | .finv => 0
  | .fsqrt => 0
  | .f2add => 0
  | .f2sub => 0
  | .f2mul => 0
  | .f2inv => 0
  | .f2sqrt => 0
  | .f2neg => 0
  | .ntti logn => logn
  | .intti logn => logn
  | .nttil logn => logn
  | .inttil logn => logn
  | .nttr logn => logn
  | .inttr logn => logn

/-- Encode a command: the fields RSV = 0, LOGN and OPC side by side, which is match(M) + (k << 8) of R66. -/
def encode (i : Instr) : Word := 0#20 ++ (BitVec.ofNat 4 i.lognValue ++ i.opcode)

/-- The word of CLRERR, "the only word that is accepted" while an error is latched (R64). -/
def clrerrWord : Word := 0x00000002#32

/-- The instruction the decoder reads from a table row's bits: the low `nbits` bits of `w`, every bit above them 0. The
block is given whole command words, so no byte order enters. -/
def decodeTableWord (nbits w : Nat) : Option Instr :=
  match decode (BitVec.ofNat 32 (w % 2 ^ nbits)) with
  | .ok i => some i
  | .error _ => none

end Sys2Proof
end

