-- ==== Sys2Proof/Machine/State.lean ====
section
/-! DEFINITION. The state of the machine as plain data (`10_state.md` R20), the reasons a step can stop, and the state
after reset (R43). -/

namespace Sys2Proof.Machine

/-- Why a step could stop with a fault. There is NO constructor: nothing in the block stops it. "Every accepted command
completes" (`70_reset_and_hazards.md` R144); a command error is a next state, the error entry of `60_exceptions.md`
R133; a bad host access is answered with a bus error and changes nothing (`20_memory.md` R49). -/
inductive Fault where
  deriving DecidableEq, Repr

/-- Why a step could be refused. -/
inductive Refusal where
  /-- Raised by an arm of `exec` whose command has no meaning yet. Safe: it stops. No arm uses it. -/
  | notModelled (mnemonic : String)
  deriving DecidableEq, Repr

/-- The causes of a command error (`60_exceptions.md` R129). -/
inductive CmdError where
  | invalidLength
  | notInvertible
  | unsupportedModulus
  | nonCanonical
  | notASquare
  | illegalCommand
  | lazyOverflow
  deriving DecidableEq, Repr

/-- A transaction on the host port (`20_memory.md` R44). -/
inductive Txn where
  | read (addr : Addr)
  | write (addr : Addr) (data : Word)
  deriving DecidableEq, Repr

/-- How a transaction completes (R44). A read that ends in a bus error carries no data (R49). -/
inductive Response where
  | ok
  | data (w : Word)
  | busError
  deriving DecidableEq, Repr

/-- What can happen next, and which of the three agents of `10_state.md` R19 does it. -/
inductive Event where
  /-- The host has this transaction outstanding. -/
  | host (t : Txn)
  /-- The engine's completion step comes before anything the host does next. -/
  | engine
  /-- The reset input is asserted (`70_reset_and_hazards.md` R139). -/
  | reset
  deriving DecidableEq, Repr

/-- The six memories as bytes of the 64 KiB address space (`10_state.md` R38, `20_memory.md` R45, R47): the bytes written
since the last reset, addresses strictly rising. An address that is not listed has not been written; what it reads as is
`State.byteAt`. -/
abbrev Memory := List Host.Cell

/-- The state. Registers and flags under the names of `10_state.md` R21 to R33; the memories as one list; and, last, the
four fields that are the model's own (log entries 2, 3, 4). -/
structure State where
  /-- `CTRL.IE_DONE`, bit 0 (R23). -/
  ieDone : Bool
  /-- `CTRL.IE_ERR`, bit 1 (R23). -/
  ieErr : Bool
  /-- `STATUS.BUSY`, bit 0 (R24). -/
  busy : Bool
  /-- `STATUS.DONE`, bit 1 (R24). -/
  done : Bool
  /-- `STATUS.ERR`, bit 2 (R24). -/
  err : Bool
  /-- `STATUS.CFGVALID`, bit 3 (R24). -/
  cfgValid : Bool
  /-- `STATUS.LIFT`, bit 4 (R24). -/
  lift : Bool
  /-- `STATUS.MERS`, bit 5 (R24). -/
  mers : Bool
  /-- `ERRCODE`, bits 3:0; the other bits read as 0 (R25). -/
  errCode : BitVec 4
  /-- `ERRINFO` (R26). -/
  errInfo : Word
  /-- `MODQ` (R28). -/
  modq : Word
  /-- `Q` (R29). -/
  q : Word
  /-- `MAXLOG`, bits 3:0; the other bits read as 0 (R30). -/
  maxLog : BitVec 4
  /-- `NINV` (R31). -/
  ninv : Word
  /-- `LIFTW0` (R32). -/
  liftW0 : Word
  /-- `LIFTW1` (R32). -/
  liftW1 : Word
  /-- `A0` (R33). -/
  a0 : Word
  /-- `A1` (R33). -/
  a1 : Word
  /-- `B0` (R33). -/
  b0 : Word
  /-- `B1` (R33). -/
  b1 : Word
  /-- `RES0` (R33). -/
  res0 : Word
  /-- `RES1` (R33). -/
  res1 : Word
  /-- `CMDLATCH` (R42 item 1). What it holds while BUSY = 0 is open; log entry 1 says what the model has there. -/
  cmdLatch : Word
  /-- `BUF0`, `BUF1`, `ROOT0`, `ROOT1`, `IROOT0`, `IROOT1` (R38). -/
  mem : Memory
  /-- The model's own: how many resets there have been, the argument of the free value `Config.unwrittenByte`. -/
  resets : Nat
  /-- The model's own: what the outside world does from here on, in order (the host's transactions and resets), and
  where the engine's completion step falls among it. -/
  agenda : List Event
  /-- The model's own: the response to the last completed host transaction, none before the first. -/
  response : Option Response
  /-- The parameter `CFG_TABLE`, OPEN in `00_scope.md` R6: an argument of the machine, no state of the block (R20). It
  stands here so that a state ranges over every table; no step changes it (log entry 2, DESIGN CHOICE). -/
  cfgTable : List Config.ModEntry
  deriving DecidableEq, Repr

/-- The state right after reset (`10_state.md` R43): every register 0, no memory byte written. `CMDLATCH` is unspecified
there and 0 here (log entry 1, DESIGN CHOICE). The parameter `CFG_TABLE` has its stated default. -/
def State.reset : State where
  ieDone := false
  ieErr := false
  busy := false
  done := false
  err := false
  cfgValid := false
  lift := false
  mers := false
  errCode := 0#4
  errInfo := 0#32
  modq := 0#32
  q := 0#32
  maxLog := 0#4
  ninv := 0#32
  liftW0 := 0#32
  liftW1 := 0#32
  a0 := 0#32
  a1 := 0#32
  b0 := 0#32
  b1 := 0#32
  res0 := 0#32
  res1 := 0#32
  cmdLatch := 0#32
  mem := []
  resets := 0
  agenda := []
  response := none
  cfgTable := Config.cfgTable

end Sys2Proof.Machine
end

