-- ==== Sys2Proof/Machine/Ops.lean ====
section
/-! DEFINITION. The named operations: bytes and words of the six memories, acceptance of a command, the two ways a
command completes (its result, or error entry), the return from the error latch, and the reset event. -/

namespace Sys2Proof.Machine

/-! ## The six memories -/

/-- The six memories of `10_state.md` R38. -/
inductive MemId where
  | buf0
  | buf1
  | root0
  | root1
  | iroot0
  | iroot1
  deriving DecidableEq, Repr

/-- The byte address of word 0 of a memory (`20_memory.md` R45). -/
def MemId.base : MemId → Nat
  | .buf0 => 0x2000
  | .buf1 => 0x4000
  | .root0 => 0x6000
  | .root1 => 0x8000
  | .iroot0 => 0xA000
  | .iroot1 => 0xC000

/-- "Word i of a memory is at base + 4·i" (R45). -/
def MemId.wordAddr (M : MemId) (i : Nat) : Nat := M.base + 4 * i

/-- The lowest byte address of the memories (R45). -/
def memBase : Nat := 0x2000

/-- The first byte address above the memories (R45). -/
def memEnd : Nat := 0xE000

/-- The byte written at an address since the last reset, if one was. -/
def memLookup : Memory → Nat → Option Byte
  | [], _ => none
  | (a', b) :: m, a => if a = a' then some b else memLookup m a

/-- Write one byte, keeping the addresses strictly rising. -/
def memStore : Memory → Nat → Byte → Memory
  | [], a, b => [(a, b)]
  | (a', b') :: m, a, b =>
    if a < a' then (a, b) :: (a', b') :: m
    else if a = a' then (a, b) :: m
    else (a', b') :: memStore m a b

/-- The addresses are strictly rising, all of them at least `lo` and all of them inside the memories. -/
def memWfFrom : Nat → Memory → Bool
  | _, [] => true
  | lo, (a, _) :: m => decide (lo ≤ a) && decide (a < memEnd) && memWfFrom (a + 1) m

/-- The canonical form of a memory (log entry 3). An address that nothing has written is not listed, and no listed byte
stands for "not written", so equal memories are equal lists. -/
def Memory.wf (m : Memory) : Bool := memWfFrom memBase m

/-- Byte `k` of a word, byte 0 the least significant (R47). -/
def wordByte (w : Word) (k : Nat) : Byte := w.extractLsb' (8 * k) 8

/-- The word made of four bytes, the byte at the lowest address first: little-endian (R47). -/
def bytesToWord (b0 b1 b2 b3 : Byte) : Word := b3 ++ b2 ++ b1 ++ b0

/-- Write one word at a byte address: "bits 7:0 of the word at address a are the byte at a, bits 31:24 the byte at
a+3" (R47). -/
def memStoreWord (m : Memory) (a : Nat) (w : Word) : Memory :=
  memStore (memStore (memStore (memStore m a (wordByte w 0)) (a + 1) (wordByte w 1)) (a + 2) (wordByte w 2)) (a + 3)
    (wordByte w 3)

/-- Write the values `vs` as words, the first at byte address `a` and each next one four bytes up. -/
def memStoreSeq : Memory → Nat → List Nat → Memory
  | m, _, [] => m
  | m, a, v :: vs => memStoreSeq (memStoreWord m a (BitVec.ofNat 32 v)) (a + 4) vs

/-- What the byte at an address reads as: the byte written there since the last reset, else a value the spec leaves
open (`10_state.md` R43; log entry 3). -/
def State.byteAt (s : State) (a : Nat) : Byte := (memLookup s.mem a).getD (Config.unwrittenByte s.resets a)

/-- The word at a byte address (R47). -/
def State.wordAt (s : State) (a : Nat) : Word :=
  bytesToWord (s.byteAt a) (s.byteAt (a + 1)) (s.byteAt (a + 2)) (s.byteAt (a + 3))

/-- `M[i]`, word `i` of memory `M` (`00_scope.md` R11). -/
def State.memWord (s : State) (M : MemId) (i : Nat) : Word := s.wordAt (M.wordAddr i)

/-- `M[i]` as the number it stores. -/
def State.memNat (s : State) (M : MemId) (i : Nat) : Nat := (s.memWord M i).toNat

/-- The words `M[lo]`, …, `M[lo + n - 1]`. -/
def State.memWords (s : State) (M : MemId) (lo n : Nat) : List Word := (List.range n).map fun i => s.memWord M (lo + i)

/-- The numbers `M[0]`, …, `M[n - 1]`. -/
def State.memSeq (s : State) (M : MemId) (n : Nat) : List Nat := (List.range n).map fun i => s.memNat M i

/-- `M[i] <- w`. -/
def State.setMemWord (s : State) (M : MemId) (i : Nat) (w : Word) : State :=
  { s with mem := memStoreWord s.mem (M.wordAddr i) w }

/-- `M[i] <- vs[i]` for every index of `vs`. -/
def State.setMemSeq (s : State) (M : MemId) (vs : List Nat) : State :=
  { s with mem := memStoreSeq s.mem M.base vs }

/-! ## The life cycle of a command -/

/-- The code of an error (`60_exceptions.md` R129). -/
def CmdError.code : CmdError → BitVec 4
  | .invalidLength => 1#4
  | .notInvertible => 2#4
  | .unsupportedModulus => 3#4
  | .nonCanonical => 4#4
  | .notASquare => 5#4
  | .illegalCommand => 6#4
  | .lazyOverflow => 7#4

/-- Acceptance of the command word `w` (`30_encoding.md` R64). -/
def State.accept (w : Word) (s : State) : State := { s with cmdLatch := w, busy := true, done := false }

/-- TAKING AN EXCEPTION: error entry with error `e`, inside the completion step of the command whose word stands in
`CMDLATCH` (`60_exceptions.md` R133). DONE "stays 0 (it was cleared at acceptance)"; BUSY falls by the life cycle
(`30_encoding.md` R65); "nothing else is written". What `CMDLATCH` holds from here on is open
(`93_implementation_defined.md` U13); it keeps the word (log entry 1, DESIGN CHOICE). -/
def State.enterError (e : CmdError) (s : State) : State :=
  { s with err := true, errCode := e.code, errInfo := s.cmdLatch, busy := false }

/-- THE RETURN FROM IT: the effect of CLRERR (`40_system.md` R70, `60_exceptions.md` R135). -/
def State.leaveError (s : State) : State := { s with err := false, errCode := 0#4, errInfo := 0#32 }

/-- Completion without error (`30_encoding.md` R65). What `CMDLATCH` holds from here on is open
(`93_implementation_defined.md` U13); it keeps the word (log entry 1, DESIGN CHOICE). -/
def State.complete (s : State) : State := { s with done := true, busy := false }

/-- The completion step of a command, given what its rule makes of the state at acceptance: the state with the command's
own writes in it, or an error, in which case "no result is written" (R65; `60_exceptions.md` R134). -/
def State.finish (s : State) : Except CmdError State → Host.Outcome State Fault Refusal
  | .ok t => .next t.complete
  | .error e => .next (s.enterError e)

/-- The command word the engine executes: a copy taken at acceptance (`20_memory.md` R57). -/
def State.fetchCommand (s : State) : Word := s.cmdLatch

/-- The engine moves next: on an empty agenda it does, else it is put first. -/
def engineFirst : List Event → List Event
  | [] => []
  | e :: es => .engine :: e :: es

/-- The reset event: every register takes its value of `10_state.md` R43, a command in flight is abandoned, and the
memories hold new unspecified contents (`70_reset_and_hazards.md` R139). What the host does next and the last response
are the outside world's and stay, and so does the parameter `CFG_TABLE`. -/
def State.resetEvent (s : State) : State :=
  { State.reset with resets := s.resets + 1, agenda := s.agenda, response := s.response, cfgTable := s.cfgTable }

end Sys2Proof.Machine
end

