-- ==== Sys2Proof/Machine/Flags.lean ====
section
/-! DEFINITION. The flag registers as the host sees them, their writes, and the interrupt line. There are no arithmetic
condition codes: "no command sets a flag as a side effect of its arithmetic result" (`10_state.md` R37). The flags that
commands write are in Ops.lean (the life cycle) and in `State.setConfig` here. -/

namespace Sys2Proof.Machine

/-- `CTRL` as read: bits 31:2 read as 0 (`10_state.md` R23). -/
def State.ctrlWord (s : State) : Word := 0#30 ++ (BitVec.ofBool s.ieErr ++ BitVec.ofBool s.ieDone)

/-- A host write to `CTRL`: "a write stores bits 1:0 of the data" (R23). -/
def State.writeCtrl (s : State) (data : Word) : State :=
  { s with ieDone := data.getLsbD 0, ieErr := data.getLsbD 1 }

/-- `STATUS` as read: bits 31:6 read as 0 (R24). -/
def State.statusWord (s : State) : Word :=
  0#26 ++ (BitVec.ofBool s.mers ++ (BitVec.ofBool s.lift ++ (BitVec.ofBool s.cfgValid ++
    (BitVec.ofBool s.err ++ (BitVec.ofBool s.done ++ BitVec.ofBool s.busy)))))

/-- A host write to `STATUS`: "with data bit 1 = 1 clears DONE; data bit 1 = 0 leaves it; all other data bits are
ignored" (R24). -/
def State.writeStatus (s : State) (data : Word) : State := { s with done := s.done && !data.getLsbD 1 }

/-- `ERRCODE` as read (R25). -/
def State.errCodeWord (s : State) : Word := s.errCode.setWidth 32

/-- `MAXLOG` as read (R30). -/
def State.maxLogWord (s : State) : Word := s.maxLog.setWidth 32

/-- The output pin `irq` (`60_exceptions.md` R136). -/
def State.irq (s : State) : Bool := (s.done && s.ieDone) || (s.err && s.ieErr)

/-- What a successful SETMOD writes (`40_system.md` R69). -/
def State.setConfig (s : State) (e : Config.ModEntry) (liftFlag mersFlag : Bool) : State :=
  { s with q := BitVec.ofNat 32 e.q, maxLog := BitVec.ofNat 4 e.maxLog, cfgValid := true, lift := liftFlag, mers := mersFlag }

end Sys2Proof.Machine
end

