-- ==== Sys2Proof/Machine/Fp.lean ====
section
/-! DEFINITION. The prime field: the pure functions of `41_fp.md` R72 to R78, on mathematical integers
(`00_scope.md` R9). -/

namespace Sys2Proof.Machine

/-- What selects the field and the multiplier datapath: `Q` and `STATUS.MERS` (`41_fp.md` R75, R79). -/
structure Modulus where
  q : Nat
  mers : Bool
  deriving DecidableEq, Repr

/-- The configured modulus. -/
def State.modulus (s : State) : Modulus := ⟨s.q.toNat, s.mers⟩

/-- `INV2`, the constant 1/2 (`00_scope.md` R16). -/
def Modulus.inv2 (F : Modulus) : Nat := (F.q + 1) / 2

/-- `fadd` (R72). -/
def fadd (F : Modulus) (a b : Nat) : Nat :=
  let s := a + b
  if F.q ≤ s then s - F.q else s

/-- `fsub` (R73), a negative difference "computed as a + q - b when a < b" (R71). -/
def fsub (F : Modulus) (a b : Nat) : Nat := if a < b then a + F.q - b else a - b

/-- `fneg` (R74; `90_conflicts.md` C1): the negation of 0 is 0. -/
def fneg (F : Modulus) (a : Nat) : Nat := fsub F 0 a

/-- `fmul` (R75): two datapaths, selected by `STATUS.MERS`. -/
def fmul (F : Modulus) (a b : Nat) : Nat :=
  let p := a * b
  if F.mers then
    let lo := p &&& (2 ^ 31 - 1)
    let hi := p >>> 31
    let s := lo + hi
    if F.q ≤ s then s - F.q else s
  else p % F.q

/-- The loop of `finv` (R76), with a bound on its iterations as first argument: `t0` at the end. -/
def finvLoop : Nat → Nat → Nat → Int → Int → Int
  | 0, _, _, t0, _ => t0
  | fuel + 1, r0, r1, t0, t1 =>
    if r1 = 0 then t0 else finvLoop fuel r1 (r0 - r0 / r1 * r1) t1 (t0 - (r0 / r1 : Nat) * t1)

/-- A number of iterations that the loop of `finv` never exceeds for operands below `q`: the remainder falls by half in
every two of them (`70_reset_and_hazards.md` R144 gives 45 for q below 2^31). -/
def finvBound (q : Nat) : Nat := 2 * (q.log2 + 1)

/-- `finv` (R76): extended Euclid, the Bézout coefficient of `a` normalised into [0, q). -/
def finv (F : Modulus) (a : Nat) : Except CmdError Nat :=
  if a = 0 then .error .notInvertible
  else .ok ((finvLoop (finvBound F.q) F.q a 0 1) % F.q).toNat

/-- The loop of `fpow` (R77), with a bound on its iterations as first argument. -/
def fpowLoop (F : Modulus) : Nat → Nat → Nat → Nat → Nat
  | 0, r, _, _ => r
  | fuel + 1, r, b, e =>
    if e = 0 then r
    else fpowLoop F fuel (if e % 2 = 1 then fmul F r b else r) (fmul F b b) (e / 2)

/-- `fpow` (R77): repeated squaring, one pass of the loop for each bit of the exponent. -/
def fpow (F : Modulus) (a e : Nat) : Nat := fpowLoop F (e.log2 + 1) 1 a e

/-- The exponent (q + 1) div 4 of both square roots (R78, `42_fp2.md` R89). -/
def Modulus.sqrtExp (F : Modulus) : Nat := (F.q + 1) / 4

/-- `fsqrt` (R78): the candidate is checked by squaring. -/
def fsqrt (F : Modulus) (a : Nat) : Except CmdError Nat :=
  let r := fpow F a F.sqrtExp
  if fmul F r r ≠ a then .error .notASquare else .ok r

end Sys2Proof.Machine
end

