-- ==== Sys2Proof/Machine/Fp2.lean ====
section
/-! DEFINITION. The quadratic extension field: the pure functions of `42_fp2.md` R85 to R89. -/

namespace Sys2Proof.Machine

/-- An ExtensionElement: the ordered pair (a0, a1), standing for a0 + a1·u with u² = -1 (`00_scope.md` R14, R18). -/
abbrev Fp2 := Nat × Nat

/-- `f2neg` (R85). -/
def f2neg (F : Modulus) (x : Fp2) : Fp2 := (fneg F x.1, fneg F x.2)

/-- `f2add` (R86). -/
def f2add (F : Modulus) (x y : Fp2) : Fp2 := (fadd F x.1 y.1, fadd F x.2 y.2)

/-- `f2sub` (R86). -/
def f2sub (F : Modulus) (x y : Fp2) : Fp2 := (fsub F x.1 y.1, fsub F x.2 y.2)

/-- `f2mul` (R87). -/
def f2mul (F : Modulus) (x y : Fp2) : Fp2 :=
  (fsub F (fmul F x.1 y.1) (fmul F x.2 y.2), fadd F (fmul F x.1 y.2) (fmul F x.2 y.1))

/-- The norm a0² + a1² (R88). -/
def f2norm (F : Modulus) (x : Fp2) : Nat := fadd F (fmul F x.1 x.1) (fmul F x.2 x.2)

/-- `f2inv` (R88). -/
def f2inv (F : Modulus) (x : Fp2) : Except CmdError Fp2 :=
  if f2norm F x = 0 then .error .notInvertible
  else do
    let ni ← finv F (f2norm F x)
    .ok (fmul F x.1 ni, fneg F (fmul F x.2 ni))

/-- The scalar case of `f2sqrt` (R89): x = (x1, 0). A residue of Fp has a root in Fp; a non-residue has a purely imaginary
one. -/
def f2sqrtScalar (F : Modulus) (x1 : Nat) : Fp2 :=
  let r := fpow F x1 F.sqrtExp
  if fmul F r r = x1 then (r, 0) else (0, r)

/-- The second component of a root of a genuine pair, sΔ being a root of the norm (R89): a root of (−x1 + sΔ)/2, or, where
that is a non-residue, of (−x1 − sΔ)/2. -/
def f2sqrtImag (F : Modulus) (x1 sD : Nat) : Nat :=
  let c := fmul F (fadd F (fneg F x1) sD) F.inv2
  let b := fpow F c F.sqrtExp
  if fmul F b b ≠ c then fpow F (fmul F (fsub F (fneg F x1) sD) F.inv2) F.sqrtExp else b

/-- `f2sqrt` (R89; `90_conflicts.md` C2). -/
def f2sqrt (F : Modulus) (x : Fp2) : Except CmdError Fp2 :=
  if x.2 = 0 then .ok (f2sqrtScalar F x.1)
  else
    let D := f2norm F x
    let sD := fpow F D F.sqrtExp
    if fmul F sD sD ≠ D then .error .notASquare
    else do
      let b := f2sqrtImag F x.1 sD
      let bi ← finv F b
      .ok (fmul F (fmul F x.2 F.inv2) bi, b)

end Sys2Proof.Machine
end

