-- ==== Sys2Proof/Machine/Network.lean ====
section
/-! DEFINITION. The transform networks as functions on sequences: the iterative networks (`44_ntt_iterative.md` R108,
R109), the lift boundary (R110, R111), the lazy networks (R115, R116) and the recursive engine (`45_ntt_recursive.md`
R121 to R125). All working sequences are hidden (`10_state.md` R42); `k` is always log2 of the length of the sequence. -/

namespace Sys2Proof.Machine

/-! ## Generic element arithmetic -/

/-- The element operations of a representation K (`00_scope.md` R15). -/
structure ElemOps (α : Type) where
  /-- Only what a read outside the sequence would give; the networks make none (`20_memory.md` R58). -/
  zero : α
  /-- `kadd` -/
  add : α → α → α
  /-- `ksub` -/
  sub : α → α → α
  /-- `kmul` -/
  mul : α → α → α
  /-- `kscale`, the multiplication by an Fp scalar -/
  scale : α → Nat → α

/-- K = Fp (R15). -/
def fpOps (F : Modulus) : ElemOps Nat where
  zero := 0
  add := fadd F
  sub := fsub F
  mul := fmul F
  scale := fmul F

/-- K = Fp2 (R15): "both components are multiplied" by a scalar. -/
def fp2Ops (F : Modulus) : ElemOps Fp2 where
  zero := (0, 0)
  add := f2add F
  sub := f2sub F
  mul := f2mul F
  scale := fun x c => (fmul F x.1 c, fmul F x.2 c)

/-! ## The iterative networks -/

variable {α : Type}

/-- One forward butterfly, in place (R108): the elements `j` and `j + t` under the twiddle factor `S`. -/
def fwdButterfly (K : ElemOps α) (S : α) (t j : Nat) (a : List α) : List α :=
  let U := a.getD j K.zero
  let V := K.mul (a.getD (j + t) K.zero) S
  (a.set j (K.add U V)).set (j + t) (K.sub U V)

/-- One group of a forward stage: `j` runs over `t` positions from `start` on. -/
def fwdGroup (K : ElemOps α) (S : α) (t start : Nat) (a : List α) : List α :=
  (List.range t).foldl (fun a r => fwdButterfly K S t (start + r) a) a

/-- One forward stage: `m` groups of size 2t, group `i` under table entry m + i (R97, R108). -/
def fwdStage (K : ElemOps α) (root : Nat → α) (m t : Nat) (a : List α) : List α :=
  (List.range m).foldl (fun a i => fwdGroup K (root (m + i)) t (2 * i * t) a) a

/-- The stages of the forward network, as many as the first argument says: each halves `t` first and doubles `m` after. -/
def fwdStages (K : ElemOps α) (root : Nat → α) : Nat → Nat → Nat → List α → List α
  | 0, _, _, a => a
  | k + 1, t, m, a => fwdStages K root k (t / 2) (2 * m) (fwdStage K root m (t / 2) a)

/-- `ntt_core` (R108) on a sequence of length L = 2^k. -/
def nttCore (K : ElemOps α) (root : Nat → α) (k : Nat) (a : List α) : List α := fwdStages K root k (2 ^ k) 1 a

/-- One inverse butterfly, in place (R109). -/
def invButterfly (K : ElemOps α) (S : α) (t j : Nat) (a : List α) : List α :=
  let U := a.getD j K.zero
  let V := a.getD (j + t) K.zero
  (a.set j (K.add U V)).set (j + t) (K.mul (K.sub U V) S)

/-- One group of an inverse stage. -/
def invGroup (K : ElemOps α) (S : α) (t start : Nat) (a : List α) : List α :=
  (List.range t).foldl (fun a r => invButterfly K S t (start + r) a) a

/-- One inverse stage: `h` groups of size 2t, group `i` under inverse table entry h + i (R97, R109). -/
def invStage (K : ElemOps α) (iroot : Nat → α) (h t : Nat) (a : List α) : List α :=
  (List.range h).foldl (fun a i => invGroup K (iroot (h + i)) t (2 * i * t) a) a

/-- The stages of the inverse network: each halves `m` first and doubles `t` after. -/
def invStages (K : ElemOps α) (iroot : Nat → α) : Nat → Nat → Nat → List α → List α
  | 0, _, _, a => a
  | k + 1, t, m, a => invStages K iroot k (2 * t) (m / 2) (invStage K iroot (m / 2) t a)

/-- `intt_core` (R109) on a sequence of length L = 2^k: the stages, then every element scaled by `NINV`. -/
def inttCore (ninv : Nat) (K : ElemOps α) (iroot : Nat → α) (k : Nat) (a : List α) : List α :=
  (invStages K iroot k 1 (2 ^ k) a).map fun x => K.scale x ninv

/-! ## The lift boundary -/

/-- The loop of `lift` (R110): as many elements as the second argument from the end says, from index `i` on, `p` being the
running power of ω. -/
def liftLoop (F : Modulus) (ω : Fp2) (L : Nat) (c : List Nat) : Nat → Nat → Fp2 → List Fp2
  | 0, _, _ => []
  | r + 1, i, p => f2mul F (c.getD i 0, fneg F (c.getD (i + L) 0)) p :: liftLoop F ω L c r (i + 1) (f2mul F p ω)

/-- `lift`, the source's `fp_to_fp2` (R110): from 2L coefficients to L pairs. -/
def liftSeq (F : Modulus) (ω : Fp2) (L : Nat) (c : List Nat) : List Fp2 := liftLoop F ω L c L 0 (1, 0)

/-- The products of `project` (R111): every element by the successive powers of ω⁻¹, from the power `p` on. -/
def projectLoop (F : Modulus) (wi : Fp2) : Fp2 → List Fp2 → List Fp2
  | _, [] => []
  | p, x :: xs => f2mul F x p :: projectLoop F wi (f2mul F p wi) xs

/-- `project`, the source's `fp2_to_fp` (R111): the 2L coefficients, and the L second components. -/
def projectSeq (F : Modulus) (ω : Fp2) (b : List Fp2) : Except CmdError (List Nat × List Nat) := do
  let wi ← f2inv F ω
  let d := projectLoop F wi (1, 0) b
  .ok (d.map (fun x => x.1) ++ d.map (fun x => fneg F x.2), d.map fun x => x.2)

/-! ## The lazy networks -/

/-- The multiple of q that makes −V non-negative at stage `l`: Q·2^(15l+14) (R114). -/
def lazyMultiple (q l : Nat) : Nat := q <<< Config.lazyShift l

/-- The bound on lazy values (R114, R115): "must be asserted/verified at each stage". -/
def lazyFits (v : Nat) : Bool := decide (v < 2 ^ Config.lazyBits)

/-- One lazy forward butterfly (R115). -/
def lazyFwdButterfly (KQ S t j : Nat) (a : List Nat) : Except CmdError (List Nat) :=
  let U := a.getD j 0
  let V := a.getD (j + t) 0 * S
  if KQ < V then .error .lazyOverflow
  else if lazyFits (U + V) && lazyFits (U + (KQ - V)) then .ok ((a.set j (U + V)).set (j + t) (U + (KQ - V)))
  else .error .lazyOverflow

/-- One group of a lazy forward stage. -/
def lazyFwdGroup (KQ S t start : Nat) (a : List Nat) : Except CmdError (List Nat) :=
  (List.range t).foldlM (fun a r => lazyFwdButterfly KQ S t (start + r) a) a

/-- One lazy forward stage. -/
def lazyFwdStage (KQ : Nat) (root : Nat → Nat) (m t : Nat) (a : List Nat) : Except CmdError (List Nat) :=
  (List.range m).foldlM (fun a i => lazyFwdGroup KQ (root (m + i)) t (2 * i * t) a) a

/-- The stages of the lazy forward network; the last number is the stage counter l. -/
def lazyFwdStages (q : Nat) (root : Nat → Nat) : Nat → Nat → Nat → Nat → List Nat → Except CmdError (List Nat)
  | 0, _, _, _, a => .ok a
  | k + 1, t, m, l, a => do
    let a' ← lazyFwdStage (lazyMultiple q l) root m (t / 2) a
    lazyFwdStages q root k (t / 2) (2 * m) (l + 1) a'

/-- `lazy_fwd` (R115): the stages, then "the final pass, where a single mod is applied to every element". -/
def lazyFwd (q : Nat) (root : Nat → Nat) (k : Nat) (a : List Nat) : Except CmdError (List Nat) := do
  let b ← lazyFwdStages q root k (2 ^ k) 1 0 a
  .ok (b.map fun v => v % q)

/-- One lazy inverse butterfly (R116). -/
def lazyInvButterfly (KQ S t j : Nat) (a : List Nat) : Except CmdError (List Nat) :=
  let U := a.getD j 0
  let V := a.getD (j + t) 0
  if KQ < V then .error .lazyOverflow
  else if lazyFits (U + V) && lazyFits ((U + (KQ - V)) * S) then .ok ((a.set j (U + V)).set (j + t) ((U + (KQ - V)) * S))
  else .error .lazyOverflow

/-- One group of a lazy inverse stage. -/
def lazyInvGroup (KQ S t start : Nat) (a : List Nat) : Except CmdError (List Nat) :=
  (List.range t).foldlM (fun a r => lazyInvButterfly KQ S t (start + r) a) a

/-- One lazy inverse stage. -/
def lazyInvStage (KQ : Nat) (iroot : Nat → Nat) (h t : Nat) (a : List Nat) : Except CmdError (List Nat) :=
  (List.range h).foldlM (fun a i => lazyInvGroup KQ (iroot (h + i)) t (2 * i * t) a) a

/-- The stages of the lazy inverse network; the last number is the stage counter l. -/
def lazyInvStages (q : Nat) (iroot : Nat → Nat) : Nat → Nat → Nat → Nat → List Nat → Except CmdError (List Nat)
  | 0, _, _, _, a => .ok a
  | k + 1, t, m, l, a => do
    let a' ← lazyInvStage (lazyMultiple q l) iroot (m / 2) t a
    lazyInvStages q iroot k (2 * t) (m / 2) (l + 1) a'

/-- The final pass of the lazy inverse on one element (R116): the product with `NINV`, checked, then reduced. -/
def lazyScale (q ninv v : Nat) : Except CmdError Nat :=
  if lazyFits (v * ninv) then .ok (v * ninv % q) else .error .lazyOverflow

/-- The final pass of the lazy inverse on every element. -/
def lazyScaleAll (q ninv : Nat) : List Nat → Except CmdError (List Nat)
  | [] => .ok []
  | v :: vs => do
    let w ← lazyScale q ninv v
    let ws ← lazyScaleAll q ninv vs
    .ok (w :: ws)

/-- `lazy_inv` (R116). -/
def lazyInv (q ninv : Nat) (iroot : Nat → Nat) (k : Nat) (a : List Nat) : Except CmdError (List Nat) := do
  let b ← lazyInvStages q iroot k 1 (2 ^ k) 0 a
  lazyScaleAll q ninv b

/-! ## The recursive engine -/

/-- The even-indexed half of `split` (`45_ntt_recursive.md` R121). -/
def evens : List α → List α
  | [] => []
  | [x] => [x]
  | x :: _ :: xs => x :: evens xs

/-- The odd-indexed half of `split` (R121). -/
def odds : List α → List α
  | [] => []
  | [_] => []
  | _ :: y :: xs => y :: odds xs

/-- `split` (R121). -/
def splitSeq (f : List α) : List α × List α := (evens f, odds f)

/-- `merge` (R121): interleave two sequences of one length. -/
def mergeSeq : List α → List α → List α
  | x :: xs, y :: ys => x :: y :: mergeSeq xs ys
  | _, _ => []

/-- `merge_ntt` (R122) from position `i` on, `h` being the length of each input, so that position `i` is served by table
entry h + i. -/
def mergeNttFrom (K : ElemOps α) (root : Nat → α) (h : Nat) : Nat → List α → List α → List α
  | i, x :: xs, y :: ys =>
    let V := K.mul y (root (h + i))
    K.add x V :: K.sub x V :: mergeNttFrom K root h (i + 1) xs ys
  | _, _, _ => []

/-- `merge_ntt` (R122). -/
def mergeNtt (K : ElemOps α) (root : Nat → α) (F0 F1 : List α) : List α := mergeNttFrom K root F0.length 0 F0 F1

/-- `split_ntt` (R123) from position `i` on, `h` being half the length of the input. -/
def splitNttFrom (inv2 : Nat) (K : ElemOps α) (iroot : Nat → α) (h : Nat) : Nat → List α → List α × List α
  | i, x :: y :: xs =>
    let r := splitNttFrom inv2 K iroot h (i + 1) xs
    (K.scale (K.add x y) inv2 :: r.1, K.mul (K.scale (K.sub x y) inv2) (iroot (h + i)) :: r.2)
  | _, _ => ([], [])

/-- `split_ntt` (R123). -/
def splitNtt (inv2 : Nat) (K : ElemOps α) (iroot : Nat → α) (f : List α) : List α × List α :=
  splitNttFrom inv2 K iroot (f.length / 2) 0 f

/-- `ntt_rec` (R124) on a sequence of length 2^k. The base case is length 2; a shorter sequence does not occur
(`60_exceptions.md` R130). -/
def nttRec (K : ElemOps α) (root : Nat → α) : Nat → List α → List α
  | 0, f => f
  | 1, f =>
    let V := K.mul (f.getD 1 K.zero) (root 1)
    [K.add (f.getD 0 K.zero) V, K.sub (f.getD 0 K.zero) V]
  | k + 2, f => mergeNtt K root (nttRec K root (k + 1) (splitSeq f).1) (nttRec K root (k + 1) (splitSeq f).2)

/-- `intt_rec` (R125) on a sequence of length 2^k. -/
def inttRec (inv2 : Nat) (K : ElemOps α) (iroot : Nat → α) : Nat → List α → List α
  | 0, f => f
  | 1, f =>
    [K.scale (K.add (f.getD 0 K.zero) (f.getD 1 K.zero)) inv2,
      K.mul (K.scale (K.sub (f.getD 0 K.zero) (f.getD 1 K.zero)) inv2) (iroot 1)]
  | k + 2, f =>
    mergeSeq (inttRec inv2 K iroot (k + 1) (splitNtt inv2 K iroot f).1)
      (inttRec inv2 K iroot (k + 1) (splitNtt inv2 K iroot f).2)

end Sys2Proof.Machine
end

