-- ==== Sys2Proof/Machine/Operands.lean ====
section
/-! DEFINITION. The operand forms of the commands: the checks made "on the state at acceptance, before any write"
(`60_exceptions.md` R132), the element views of the memories (`10_state.md` R39), the input sets (R131), and, for each
form, the one shared operation that checks, reads, computes and writes. -/

namespace Sys2Proof.Machine

/-! ## The checks -/

/-- Rank 2 (R132): a modulus must be configured. -/
def State.requireConfigured (s : State) : Except CmdError Unit :=
  if s.cfgValid then .ok () else .error .unsupportedModulus

/-- Rank 3 (R132), for FSQRT and the six Fp2 commands: Q mod 4 = 3. -/
def State.requireThreeModFour (s : State) : Except CmdError Unit :=
  if s.q.toNat % 4 = 3 then .ok () else .error .unsupportedModulus

/-- Rank 3 (R132), for NTTIL and INTTIL: Q = `LAZY_Q`. -/
def State.requireLazyModulus (s : State) : Except CmdError Unit :=
  if s.q.toNat = Config.lazyQ then .ok () else .error .unsupportedModulus

/-- No check of rank 3. -/
def State.requireNothing (_ : State) : Except CmdError Unit := .ok ()

/-- The smallest LOGN a transform accepts: 1 direct, 2 lifted (R130). -/
def State.lognMin (s : State) : Nat := if s.lift then 2 else 1

/-- Rank 4 (R132): the length check of R130. -/
def State.requireLength (s : State) (logn : Nat) : Except CmdError Unit :=
  if s.lognMin ≤ logn ∧ logn ≤ s.maxLog.toNat then .ok () else .error .invalidLength

/-- Every word of an input set is canonical: below `Q` (R131). -/
def State.canonical (s : State) (ws : List Word) : Bool := ws.all fun w => decide (w.toNat < s.q.toNat)

/-- Rank 5 (R132): the canonical-input check of R131. -/
def State.requireCanonical (s : State) (ws : List Word) : Except CmdError Unit :=
  if s.canonical ws then .ok () else .error .nonCanonical

/-! ## The scalar forms -/

/-- The Fp operand a = `A0` (`41_fp.md` R79). -/
def State.opA (s : State) : Nat := s.a0.toNat

/-- The Fp operand b = `B0` (R79). -/
def State.opB (s : State) : Nat := s.b0.toNat

/-- The Fp2 operand x = (`A0`, `A1`) (`10_state.md` R33). -/
def State.opX (s : State) : Fp2 := (s.a0.toNat, s.a1.toNat)

/-- The Fp2 operand y = (`B0`, `B1`) (R33). -/
def State.opY (s : State) : Fp2 := (s.b0.toNat, s.b1.toNat)

/-- "An Fp command … writes `RES0` only" (R33). -/
def State.setRes (s : State) (r : Nat) : State := { s with res0 := BitVec.ofNat 32 r }

/-- "An Fp2 command … writes the pair r" (R33). -/
def State.setResPair (s : State) (r : Fp2) : State :=
  { s with res0 := BitVec.ofNat 32 r.1, res1 := BitVec.ofNat 32 r.2 }

/-- A one-operand Fp command (R79): `structural` is its check of rank 3, `B0` is not read. -/
def State.fpUnary (s : State) (structural : State → Except CmdError Unit) (f : Modulus → Nat → Except CmdError Nat) :
    Except CmdError State := do
  s.requireConfigured
  structural s
  s.requireCanonical [s.a0]
  let r ← f s.modulus s.opA
  .ok (s.setRes r)

/-- A two-operand Fp command (R79). -/
def State.fpBinary (s : State) (f : Modulus → Nat → Nat → Nat) : Except CmdError State := do
  s.requireConfigured
  s.requireCanonical [s.a0, s.b0]
  .ok (s.setRes (f s.modulus s.opA s.opB))

/-- A one-operand Fp2 command (`42_fp2.md` R90): B is not read. -/
def State.fp2Unary (s : State) (f : Modulus → Fp2 → Except CmdError Fp2) : Except CmdError State := do
  s.requireConfigured
  s.requireThreeModFour
  s.requireCanonical [s.a0, s.a1]
  let r ← f s.modulus s.opX
  .ok (s.setResPair r)

/-- A two-operand Fp2 command (R90). -/
def State.fp2Binary (s : State) (f : Modulus → Fp2 → Fp2 → Fp2) : Except CmdError State := do
  s.requireConfigured
  s.requireThreeModFour
  s.requireCanonical [s.a0, s.a1, s.b0, s.b1]
  .ok (s.setResPair (f s.modulus s.opX s.opY))

/-! ## The vector forms -/

/-- The lift root ω (R32). -/
def State.liftRoot (s : State) : Fp2 := (s.liftW0.toNat, s.liftW1.toNat)

/-- The element `M[k]` when K = Fp2: the pair of words k of the two component memories (`10_state.md` R39). -/
def State.memPair (s : State) (M0 M1 : MemId) (k : Nat) : Fp2 := (s.memNat M0 k, s.memNat M1 k)

/-- `ROOT[k]`, K = Fp. -/
def State.rootFp (s : State) (k : Nat) : Nat := s.memNat .root0 k

/-- `ROOT[k]`, K = Fp2. -/
def State.rootFp2 (s : State) (k : Nat) : Fp2 := s.memPair .root0 .root1 k

/-- `IROOT[k]`, K = Fp. -/
def State.irootFp (s : State) (k : Nat) : Nat := s.memNat .iroot0 k

/-- `IROOT[k]`, K = Fp2. -/
def State.irootFp2 (s : State) (k : Nat) : Fp2 := s.memPair .iroot0 .iroot1 k

/-- [`BUF0[0]`, …, `BUF0[n-1]`]. -/
def State.bufFp (s : State) (n : Nat) : List Nat := s.memSeq .buf0 n

/-- [(`BUF0[0]`, `BUF1[0]`), …, (`BUF0[n-1]`, `BUF1[n-1]`)]. -/
def State.bufFp2 (s : State) (n : Nat) : List Fp2 := (List.range n).map fun i => s.memPair .buf0 .buf1 i

/-- Write a sequence of pairs to the buffer: first components to `BUF0`, second ones to `BUF1`. -/
def State.setBufFp2 (s : State) (b : List Fp2) : State :=
  (s.setMemSeq .buf0 (b.map fun x => x.1)).setMemSeq .buf1 (b.map fun x => x.2)

/-- log2 of the network length L: L = n direct, L = n/2 lifted (`44_ntt_iterative.md` R107). -/
def State.logL (s : State) (logn : Nat) : Nat := if s.lift then logn - 1 else logn

/-- The input set of NTTI, NTTR and, direct, NTTIL (`44_ntt_iterative.md` R112, R118; `45_ntt_recursive.md` R126). Entry
0 of a table is in no input set. -/
def State.forwardInputs (s : State) (logn : Nat) : List Word :=
  if s.lift then
    s.memWords .buf0 0 (2 ^ logn) ++ [s.liftW0, s.liftW1] ++ s.memWords .root0 1 (2 ^ s.logL logn - 1) ++
      s.memWords .root1 1 (2 ^ s.logL logn - 1)
  else s.memWords .buf0 0 (2 ^ logn) ++ s.memWords .root0 1 (2 ^ logn - 1)

/-- The input set of INTTR (R127). Those of INTTI and INTTIL add `NINV` (R113, R119). -/
def State.inverseInputs (s : State) (logn : Nat) : List Word :=
  if s.lift then
    s.memWords .buf0 0 (2 ^ s.logL logn) ++ s.memWords .buf1 0 (2 ^ s.logL logn) ++
      s.memWords .iroot0 1 (2 ^ s.logL logn - 1) ++ s.memWords .iroot1 1 (2 ^ s.logL logn - 1) ++ [s.liftW0, s.liftW1]
  else s.memWords .buf0 0 (2 ^ logn) ++ s.memWords .iroot0 1 (2 ^ logn - 1)

/-- What a forward transform writes once its checks have passed, `net` being the engine's network: direct, the transform
of the buffer; lifted, that of the lifted buffer, "`BUF0[L..n-1]` keeps the upper coefficients it held" (R112). -/
def State.forwardResult (s : State) (logn : Nat)
    (net : {α : Type} → ElemOps α → (Nat → α) → Nat → List α → List α) : State :=
  if s.lift then
    s.setBufFp2 (net (fp2Ops s.modulus) s.rootFp2 (s.logL logn)
      (liftSeq s.modulus s.liftRoot (2 ^ s.logL logn) (s.bufFp (2 ^ logn))))
  else s.setMemSeq .buf0 (net (fpOps s.modulus) s.rootFp logn (s.bufFp (2 ^ logn)))

/-- A forward transform by the engine with network `net` (checks 1, 3, 4 of R107). -/
def State.forward (s : State) (logn : Nat) (net : {α : Type} → ElemOps α → (Nat → α) → Nat → List α → List α) :
    Except CmdError State := do
  s.requireConfigured
  s.requireLength logn
  s.requireCanonical (s.forwardInputs logn)
  .ok (s.forwardResult logn net)

/-- What an inverse transform writes once its checks have passed: direct, `BUF0[0..n-1]`; lifted, also
`BUF1[0..L-1]`, "left holding the second components of the projected pairs" (R113). NotInvertible comes from `project`. -/
def State.inverseResult (s : State) (logn : Nat)
    (net : {α : Type} → ElemOps α → (Nat → α) → Nat → List α → List α) : Except CmdError State :=
  if s.lift then do
    let r ← projectSeq s.modulus s.liftRoot
      (net (fp2Ops s.modulus) s.irootFp2 (s.logL logn) (s.bufFp2 (2 ^ s.logL logn)))
    .ok ((s.setMemSeq .buf0 r.1).setMemSeq .buf1 r.2)
  else .ok (s.setMemSeq .buf0 (net (fpOps s.modulus) s.irootFp logn (s.bufFp (2 ^ logn))))

/-- An inverse transform by the engine with network `net`; `extra` is what the input set holds beside that of INTTR
(checks 1, 3, 4, 5 of R107). -/
def State.inverse (s : State) (logn : Nat) (extra : List Word)
    (net : {α : Type} → ElemOps α → (Nat → α) → Nat → List α → List α) : Except CmdError State := do
  s.requireConfigured
  s.requireLength logn
  s.requireCanonical (s.inverseInputs logn ++ extra)
  s.inverseResult logn net

/-- The input set of NTTIL (R118): there is no lifted form. -/
def State.lazyForwardInputs (s : State) (logn : Nat) : List Word :=
  s.memWords .buf0 0 (2 ^ logn) ++ s.memWords .root0 1 (2 ^ logn - 1)

/-- The input set of INTTIL (R119). -/
def State.lazyInverseInputs (s : State) (logn : Nat) : List Word :=
  s.memWords .buf0 0 (2 ^ logn) ++ s.memWords .iroot0 1 (2 ^ logn - 1) ++ [s.ninv]

/-- A lazy transform with network `net` and input set `inputs` (checks 1 to 5 of R107). -/
def State.lazyTransform (s : State) (logn : Nat) (inputs : List Word) (net : List Nat → Except CmdError (List Nat)) :
    Except CmdError State := do
  s.requireConfigured
  s.requireLazyModulus
  s.requireLength logn
  s.requireCanonical inputs
  let c ← net (s.bufFp (2 ^ logn))
  .ok (s.setMemSeq .buf0 c)

end Sys2Proof.Machine
end

