-- ==== Sys2Proof/Machine/Extension.lean ====
section
/-! DEFINITION. The quadratic-extension commands F2ADD, F2SUB, F2MUL, F2INV, F2SQRT, F2NEG (`42_fp2.md` R90 to R96). -/

namespace Sys2Proof.Machine

/-- F2ADD (R91). -/
def execF2add (s : State) : Host.Outcome State Fault Refusal := s.finish (s.fp2Binary f2add)

/-- F2SUB (R92). -/
def execF2sub (s : State) : Host.Outcome State Fault Refusal := s.finish (s.fp2Binary f2sub)

/-- F2MUL (R93). -/
def execF2mul (s : State) : Host.Outcome State Fault Refusal := s.finish (s.fp2Binary f2mul)

/-- F2INV (R94): NotInvertible when the norm is 0. -/
def execF2inv (s : State) : Host.Outcome State Fault Refusal := s.finish (s.fp2Unary f2inv)

/-- F2SQRT (R95): NotASquare when x is not a square in Fp2. -/
def execF2sqrt (s : State) : Host.Outcome State Fault Refusal := s.finish (s.fp2Unary f2sqrt)

/-- F2NEG (R96). -/
def execF2neg (s : State) : Host.Outcome State Fault Refusal := s.finish (s.fp2Unary fun F x => .ok (f2neg F x))

end Sys2Proof.Machine
end

