-- ==== Sys2Proof/Machine/Iterative.lean ====
section
/-! DEFINITION. The commands of the iterative engine: NTTI, INTTI and the lazy NTTIL, INTTIL (`44_ntt_iterative.md`). -/

namespace Sys2Proof.Machine

/-- NTTI (R112). -/
def execNtti (logn : Nat) (s : State) : Host.Outcome State Fault Refusal := s.finish (s.forward logn nttCore)

/-- INTTI (R113): `NINV` is in the input set. -/
def execIntti (logn : Nat) (s : State) : Host.Outcome State Fault Refusal :=
  s.finish (s.inverse logn [s.ninv] (inttCore s.ninv.toNat))

/-- NTTIL (R118). -/
def execNttil (logn : Nat) (s : State) : Host.Outcome State Fault Refusal :=
  s.finish (s.lazyTransform logn (s.lazyForwardInputs logn) (lazyFwd s.q.toNat s.rootFp logn))

/-- INTTIL (R119). -/
def execInttil (logn : Nat) (s : State) : Host.Outcome State Fault Refusal :=
  s.finish (s.lazyTransform logn (s.lazyInverseInputs logn) (lazyInv s.q.toNat s.ninv.toNat s.irootFp logn))

end Sys2Proof.Machine
end

