-- ==== Sys2Proof/Machine/PrimeField.lean ====
section
/-! DEFINITION. The prime-field commands FADD, FSUB, FMUL, FINV, FSQRT (`41_fp.md` R79 to R84). -/

namespace Sys2Proof.Machine

/-- FADD (R80). -/
def execFadd (s : State) : Host.Outcome State Fault Refusal := s.finish (s.fpBinary fadd)

/-- FSUB (R81). -/
def execFsub (s : State) : Host.Outcome State Fault Refusal := s.finish (s.fpBinary fsub)

/-- FMUL (R82). -/
def execFmul (s : State) : Host.Outcome State Fault Refusal := s.finish (s.fpBinary fmul)

/-- FINV (R83): NotInvertible at 0. -/
def execFinv (s : State) : Host.Outcome State Fault Refusal := s.finish (s.fpUnary State.requireNothing finv)

/-- FSQRT (R84): UnsupportedModulus unless Q mod 4 = 3, NotASquare at a non-residue. -/
def execFsqrt (s : State) : Host.Outcome State Fault Refusal := s.finish (s.fpUnary State.requireThreeModFour fsqrt)

end Sys2Proof.Machine
end

