-- ==== Sys2Proof/Machine/Recursive.lean ====
section
/-! DEFINITION. The commands of the recursive engine: NTTR, INTTR (`45_ntt_recursive.md`). -/

namespace Sys2Proof.Machine

/-- NTTR (R126). -/
def execNttr (logn : Nat) (s : State) : Host.Outcome State Fault Refusal := s.finish (s.forward logn nttRec)

/-- INTTR (R127): the constant 1/2 is computed from `Q`; `NINV` is no operand. -/
def execInttr (logn : Nat) (s : State) : Host.Outcome State Fault Refusal :=
  s.finish (s.inverse logn [] (inttRec s.modulus.inv2))

end Sys2Proof.Machine
end

