-- ==== Sys2Proof/Machine/System.lean ====
section
/-! DEFINITION. The system commands NOP, SETMOD, CLRERR (`40_system.md`). -/

namespace Sys2Proof.Machine

/-- NOP (R68): no write, no check. -/
def execNop (s : State) : Host.Outcome State Fault Refusal := s.finish (.ok s)

/-- The loop of `ctzNat`, with a bound on its iterations as first argument. -/
def ctzLoop : Nat → Nat → Nat
  | 0, _ => 0
  | fuel + 1, x => if x % 2 = 1 then 0 else ctzLoop fuel (x / 2) + 1

/-- `ctz(x)`, x > 0: "the largest k with 2^k dividing x" (`00_scope.md` R10). -/
def ctzNat (x : Nat) : Nat := ctzLoop (x.log2 + 1) x

/-- Whether a table entry needs the lifted configuration: its two-adicity is below max_log2_n + 1 (R69). -/
def needsLift (e : Config.ModEntry) : Bool := decide (ctzNat (e.q - 1) < e.maxLog + 1)

/-- The first entry of a table, in table order, with modulus `q` (R69). -/
def lookupModulus (table : List Config.ModEntry) (q : Nat) : Option Config.ModEntry :=
  table.find? fun e => decide (e.q = q)

/-- SETMOD's choice of a configuration from a table (R69): the entry, unless there is none or it "would need lifting but is
not 3 mod 4". -/
def chooseModulus (table : List Config.ModEntry) (q : Nat) : Except CmdError Config.ModEntry :=
  match lookupModulus table q with
  | none => .error .unsupportedModulus
  | some e => if needsLift e && decide (e.q % 4 ≠ 3) then .error .unsupportedModulus else .ok e

/-- SETMOD (R69): configure the modulus `MODQ` from the machine's `CFG_TABLE`, whatever table that is (`00_scope.md` R6). -/
def execSetmod (s : State) : Host.Outcome State Fault Refusal :=
  s.finish do
    let e ← chooseModulus s.cfgTable s.modq.toNat
    .ok (s.setConfig e (needsLift e) (decide (e.q = Config.mersQ)))

/-- CLRERR (R70): leave the error state. No check. -/
def execClrerr (s : State) : Host.Outcome State Fault Refusal := s.finish (.ok s.leaveError)

end Sys2Proof.Machine
end

