-- ==== Sys2Proof/Machine/Dispatch.lean ====
section
/-! DEFINITION. The completion step of a decoded command: one arm per constructor of `Instr`, each one call of its meaning. -/

namespace Sys2Proof.Machine

/-- The meaning of a command: its completion step (`30_encoding.md` R65), from the state at acceptance. -/
def exec (i : Instr) (s : State) : Host.Outcome State Fault Refusal :=
  match i with
  | .nop => Sys2Proof.Machine.execNop s
  | .setmod => Sys2Proof.Machine.execSetmod s
  | .clrerr => Sys2Proof.Machine.execClrerr s
  | .fadd => Sys2Proof.Machine.execFadd s
  | .fsub => Sys2Proof.Machine.execFsub s
  | .fmul => Sys2Proof.Machine.execFmul s
  | .finv => Sys2Proof.Machine.execFinv s
  | .fsqrt => Sys2Proof.Machine.execFsqrt s
  | .f2add => Sys2Proof.Machine.execF2add s
  | .f2sub => Sys2Proof.Machine.execF2sub s
  | .f2mul => Sys2Proof.Machine.execF2mul s
  | .f2inv => Sys2Proof.Machine.execF2inv s
  | .f2sqrt => Sys2Proof.Machine.execF2sqrt s
  | .f2neg => Sys2Proof.Machine.execF2neg s
  | .ntti logn => Sys2Proof.Machine.execNtti logn s
  | .intti logn => Sys2Proof.Machine.execIntti logn s
  | .nttil logn => Sys2Proof.Machine.execNttil logn s
  | .inttil logn => Sys2Proof.Machine.execInttil logn s
  | .nttr logn => Sys2Proof.Machine.execNttr logn s
  | .inttr logn => Sys2Proof.Machine.execInttr logn s

end Sys2Proof.Machine
end

