-- ==== Sys2Proof/Machine/Engine.lean ====
section
/-! DEFINITION. The engine's turn: from the command word in `CMDLATCH` to the command's completion step. -/

namespace Sys2Proof.Machine

/-- The completion step of the command in `CMDLATCH` (`30_encoding.md` R65): a word that selects no command raises
IllegalCommand (R63). -/
def State.runCommand (s : State) : Host.Outcome State Fault Refusal :=
  match decode s.fetchCommand with
  | .ok i => exec i s
  | .error _ => .next (s.enterError .illegalCommand)

/-- The engine's turn: its completion step, "enabled exactly when BUSY = 1" (R65); an idle engine changes nothing. -/
def State.engineStep (s : State) : Host.Outcome State Fault Refusal := if s.busy then s.runCommand else .next s

end Sys2Proof.Machine
end

