-- ==== Sys2Proof/Machine/HostPort.lean ====
section
/-! DEFINITION. The host port: the address map (`10_state.md` R21, `20_memory.md` R45), the BUSY hold (R53), and what
`HostRead` and `HostWrite` do (R50, R51). -/

namespace Sys2Proof.Machine

/-- The registers of the map of R21. -/
inductive Reg where
  | id
  | ctrl
  | status
  | errCode
  | errInfo
  | cmd
  | modq
  | q
  | maxLog
  | ninv
  | liftW0
  | liftW1
  | a0
  | a1
  | b0
  | b1
  | res0
  | res1
  deriving DecidableEq, Repr

/-- The registers in the order of their offsets, 0x00 to 0x44, four bytes each (R21). -/
def regMap : List Reg :=
  [.id, .ctrl, .status, .errCode, .errInfo, .cmd, .modq, .q, .maxLog, .ninv, .liftW0, .liftW1, .a0, .a1, .b0, .b1,
    .res0, .res1]

/-- The six memories in the order of their bases, 0x2000 bytes each (R45). -/
def memMap : List MemId := [.buf0, .buf1, .root0, .root1, .iroot0, .iroot1]

/-- What an address names: a register, or a word of a memory. -/
inductive Loc where
  | reg (r : Reg)
  | word (M : MemId) (i : Nat)
  deriving DecidableEq, Repr

/-- Decode an aligned address (R45); none in a reserved range. -/
def locate (addr : Addr) : Option Loc :=
  let a := addr.toNat
  if a < memBase then (regMap[a / 4]?).map Loc.reg
  else (memMap[(a - memBase) / 0x2000]?).map fun M => Loc.word M (a % 0x2000 / 4)

/-- A transaction is misaligned: addr[1:0] ≠ 0 (R48). -/
def misaligned (addr : Addr) : Bool := decide (addr.toNat % 4 ≠ 0)

/-- The registers a host write may not touch (R49, R51). -/
def Loc.readOnly : Loc → Bool
  | .reg .id | .reg .errCode | .reg .errInfo | .reg .q | .reg .maxLog | .reg .res0 | .reg .res1 => true
  | _ => false

/-- The registers whose reads complete while BUSY (R50, R53). -/
def Loc.readsWhileBusy : Loc → Bool
  | .reg .id | .reg .ctrl | .reg .status | .reg .errCode | .reg .errInfo => true
  | _ => false

/-- The register whose writes complete while BUSY (R51, R53). -/
def Loc.writesWhileBusy : Loc → Bool
  | .reg .ctrl => true
  | _ => false

/-- What a read of a register returns: reserved bits and `CMD` return 0 (R50). -/
def State.readReg (s : State) : Reg → Word
  | .id => Config.idValue
  | .ctrl => s.ctrlWord
  | .status => s.statusWord
  | .errCode => s.errCodeWord
  | .errInfo => s.errInfo
  | .cmd => 0#32
  | .modq => s.modq
  | .q => s.q
  | .maxLog => s.maxLogWord
  | .ninv => s.ninv
  | .liftW0 => s.liftW0
  | .liftW1 => s.liftW1
  | .a0 => s.a0
  | .a1 => s.a1
  | .b0 => s.b0
  | .b1 => s.b1
  | .res0 => s.res0
  | .res1 => s.res1

/-- What a read of a location returns. "A read never changes state" (R50). -/
def State.readLoc (s : State) : Loc → Word
  | .reg r => s.readReg r
  | .word M i => s.memWord M i

/-- A command launch attempt, BUSY being 0 (`30_encoding.md` R64). -/
def State.launch (s : State) (w : Word) : State × Response :=
  if s.err = true ∧ w ≠ clrerrWord then (s, .busError) else (s.accept w, .ok)

/-- A write to a location that may be written now (R51 items 4 to 8); a read-only register is left as it is. -/
def State.writeLoc (s : State) (l : Loc) (data : Word) : State × Response :=
  match l with
  | .reg .ctrl => (s.writeCtrl data, .ok)
  | .reg .status => (s.writeStatus data, .ok)
  | .reg .cmd => s.launch data
  | .reg .modq => ({ s with modq := data }, .ok)
  | .reg .ninv => ({ s with ninv := data }, .ok)
  | .reg .liftW0 => ({ s with liftW0 := data }, .ok)
  | .reg .liftW1 => ({ s with liftW1 := data }, .ok)
  | .reg .a0 => ({ s with a0 := data }, .ok)
  | .reg .a1 => ({ s with a1 := data }, .ok)
  | .reg .b0 => ({ s with b0 := data }, .ok)
  | .reg .b1 => ({ s with b1 := data }, .ok)
  | .reg .id => (s, .busError)
  | .reg .errCode => (s, .busError)
  | .reg .errInfo => (s, .busError)
  | .reg .q => (s, .busError)
  | .reg .maxLog => (s, .busError)
  | .reg .res0 => (s, .busError)
  | .reg .res1 => (s, .busError)
  | .word M i => (s.setMemWord M i data, .ok)

/-- `HostRead(addr)`, in the order of R50; none: held. -/
def State.hostRead (s : State) (addr : Addr) : Option (State × Response) :=
  if misaligned addr then some (s, .busError)
  else
    match locate addr with
    | none => some (s, .busError)
    | some l => if s.busy && !l.readsWhileBusy then none else some (s, .data (s.readLoc l))

/-- `HostWrite(addr, data)`, in the order of R51; none: held. -/
def State.hostWrite (s : State) (addr : Addr) (data : Word) : Option (State × Response) :=
  if misaligned addr then some (s, .busError)
  else
    match locate addr with
    | none => some (s, .busError)
    | some l =>
      if l.readOnly then some (s, .busError)
      else if s.busy && !l.writesWhileBusy then none
      else some (s.writeLoc l data)

/-- A host transaction: the state after it and its response, or none where it is held (R44, R53). -/
def State.hostTxn (s : State) : Txn → Option (State × Response)
  | .read addr => s.hostRead addr
  | .write addr data => s.hostWrite addr data

/-- The host's turn, `rest` being what is to come after its outstanding transaction: the state after the transaction has
completed, its response recorded; none where it is held. -/
def State.hostTurn (s : State) (t : Txn) (rest : List Event) : Option State :=
  match s.hostTxn t with
  | some (s', r) => some { s' with agenda := rest, response := some r }
  | none => none

end Sys2Proof.Machine
end

