-- ==== Sys2Proof/Machine/Step.lean ====
section
/-! DEFINITION. One step of the machine: one atomic act of one of the three agents of `10_state.md` R19, the outside
world's part of it taken from the agenda (log entry 4). -/

namespace Sys2Proof.Machine

/-- One step. With nothing on the agenda the engine runs. The engine's and the reset's turns leave the agenda. A host
transaction that completes leaves it with its response; one that is held stays, and what can happen is the completion
step that lifts the hold (`20_memory.md` R53). -/
def step (s : State) : Host.Outcome State Fault Refusal :=
  match s.agenda with
  | [] => s.engineStep
  | .engine :: rest => State.engineStep { s with agenda := rest }
  | .reset :: rest => .next (State.resetEvent { s with agenda := rest })
  | .host t :: rest =>
    match s.hostTurn t rest with
    | some t' => .next t'
    | none => s.engineStep

/-- `s` with a command word where the engine takes its next command from: the word accepted (`30_encoding.md` R64), and
the engine first to move. There is no instruction memory to fetch from (`10_state.md` R35; log entry 5). -/
def State.withFetchWord (s : State) (nbits w : Nat) : State :=
  { s.accept (BitVec.ofNat 32 (w % 2 ^ nbits)) with agenda := engineFirst s.agenda }

end Sys2Proof.Machine
end

