-- ==== Sys2Proof/Safety.lean ====
section
/-! DEFINITION. The terms the statements use: the invariants of the machine, what each transform asks of the state, and
the transcriptions of the spec that the model is held against. -/

namespace Sys2Proof

/-! ## Kinds of commands -/

/-- The five Fp commands (`41_fp.md` R79). -/
def Instr.isFp : Instr → Bool
  | .fadd | .fsub | .fmul | .finv | .fsqrt => true
  | .nop | .setmod | .clrerr => false
  | .f2add | .f2sub | .f2mul | .f2inv | .f2sqrt | .f2neg => false
  | .ntti _ | .intti _ | .nttil _ | .inttil _ | .nttr _ | .inttr _ => false

/-- The six Fp2 commands (`42_fp2.md` R90). -/
def Instr.isFp2 : Instr → Bool
  | .f2add | .f2sub | .f2mul | .f2inv | .f2sqrt | .f2neg => true
  | .nop | .setmod | .clrerr => false
  | .fadd | .fsub | .fmul | .finv | .fsqrt => false
  | .ntti _ | .intti _ | .nttil _ | .inttil _ | .nttr _ | .inttr _ => false

/-- The LOGN of the six transform commands (`30_encoding.md` R61). -/
def Instr.transformLogn : Instr → Option Nat
  | .ntti logn | .intti logn | .nttil logn | .inttil logn | .nttr logn | .inttr logn => some logn
  | .nop | .setmod | .clrerr => none
  | .fadd | .fsub | .fmul | .finv | .fsqrt => none
  | .f2add | .f2sub | .f2mul | .f2inv | .f2sqrt | .f2neg => none

/-- The match column of the opcode map, LOGN put at bits 11:8 (`30_encoding.md` R62, R66). -/
def Instr.matchValue : Instr → Nat
  | .nop => 0x00000000
  | .setmod => 0x00000001
  | .clrerr => 0x00000002
  | .fadd => 0x00000010
  | .fsub => 0x00000011
  | .fmul => 0x00000012
  | .finv => 0x00000013
  | .fsqrt => 0x00000014
  | .f2add => 0x00000020
  | .f2sub => 0x00000021
  | .f2mul => 0x00000022
  | .f2inv => 0x00000023
  | .f2sqrt => 0x00000024
  | .f2neg => 0x00000025
  | .ntti _ => 0x00000030
  | .intti _ => 0x00000031
  | .nttil _ => 0x00000032
  | .inttil _ => 0x00000033
  | .nttr _ => 0x00000040
  | .inttr _ => 0x00000041

/-- The mask column of the opcode map (R62). -/
def Instr.maskValue (i : Instr) : Nat := if i.transformLogn.isSome then 0xFFFFF0FF else 0xFFFFFFFF

end Sys2Proof

namespace Sys2Proof.Machine

/-! ## The invariant -/

/-- What `00_scope.md` R7 asks of every entry of any value of `CFG_TABLE`. -/
def entryOk (e : Config.ModEntry) : Prop :=
  e.q.Prime ∧ e.q % 2 = 1 ∧ 3 ≤ e.q ∧ e.q < 2 ^ 31 ∧ e.maxLog ≤ Config.lognMax

/-- The machine's table is one that R7 allows. -/
def State.TableOk (s : State) : Prop := ∀ e ∈ s.cfgTable, entryOk e

/-- The configuration registers belong together: "Meaningful only when `STATUS.CFGVALID` = 1, and then it equals the q of
an entry of `CFG_TABLE`" (`10_state.md` R29), the entry SETMOD takes, with MAXLOG, LIFT and MERS that entry's
(`40_system.md` R69); else they are at their reset values (R43). -/
def State.ConfigOk (s : State) : Prop :=
  (s.cfgValid = true → ∃ e, chooseModulus s.cfgTable s.q.toNat = .ok e ∧ s.maxLog.toNat = e.maxLog ∧
    s.lift = needsLift e ∧ s.mers = decide (e.q = Config.mersQ)) ∧
  (s.cfgValid = false → s.q = 0#32 ∧ s.maxLog = 0#4 ∧ s.lift = false ∧ s.mers = false)

/-- The error registers belong together: 0 when no error is latched (R25, R26), else a code of
`60_exceptions.md` R129; "DONE and ERR are never 1 together" (R136). -/
def State.LatchOk (s : State) : Prop :=
  (s.err = false → s.errCode = 0#4 ∧ s.errInfo = 0#32) ∧
  (s.err = true → 1 ≤ s.errCode.toNat ∧ s.errCode.toNat ≤ 7) ∧
  ¬(s.done = true ∧ s.err = true)

/-- A command in flight: acceptance cleared DONE, and with an error latched only CLRERR was accepted
(`30_encoding.md` R64). -/
def State.FlightOk (s : State) : Prop :=
  s.busy = true → s.done = false ∧ (s.err = true → s.cmdLatch = clrerrWord)

/-- The invariant of the machine. -/
structure State.Inv (s : State) : Prop where
  /-- The memories are in canonical form. -/
  mem : s.mem.wf = true
  /-- The parameter `CFG_TABLE` meets its constraints. -/
  table : s.TableOk
  config : s.ConfigOk
  latch : s.LatchOk
  flight : s.FlightOk

/-! ## The two ways a command ends, as records -/

/-- The state after error entry with the given code (`60_exceptions.md` R133). -/
def State.withError (s : State) (code : BitVec 4) : State :=
  { s with err := true, errCode := code, errInfo := s.cmdLatch, busy := false }

/-- The state after completion without error, `s` being the state with the command's writes (`30_encoding.md` R65). -/
def State.withDone (s : State) : State := { s with done := true, busy := false }

/-- The step goes on as `f` says wherever it goes on. -/
def mapNext (f : State → State) : Host.Outcome State Fault Refusal → Host.Outcome State Fault Refusal
  | .next t => .next (f t)
  | .fault r => .fault r
  | .refused r => .refused r

/-! ## What a transform asks of the state -/

/-- The length check of `60_exceptions.md` R130. -/
def State.lengthAllowed (s : State) (logn : Nat) : Prop :=
  if s.lift = true then 2 ≤ logn ∧ logn ≤ s.maxLog.toNat else 1 ≤ logn ∧ logn ≤ s.maxLog.toNat

/-- The words `M[lo]`, …, `M[hi - 1]` are canonical (R131). -/
def State.wordsBelowQ (s : State) (M : MemId) (lo hi : Nat) : Prop :=
  ∀ i, lo ≤ i → i < hi → (s.memWord M i).toNat < s.q.toNat

/-- The input set of NTTI, NTTR and NTTIL is canonical (`44_ntt_iterative.md` R112, R118; `45_ntt_recursive.md` R126). -/
def State.forwardCanonical (s : State) (logn : Nat) : Prop :=
  if s.lift = true then
    s.wordsBelowQ .buf0 0 (2 ^ logn) ∧ s.liftW0.toNat < s.q.toNat ∧ s.liftW1.toNat < s.q.toNat ∧
      s.wordsBelowQ .root0 1 (2 ^ (logn - 1)) ∧ s.wordsBelowQ .root1 1 (2 ^ (logn - 1))
  else s.wordsBelowQ .buf0 0 (2 ^ logn) ∧ s.wordsBelowQ .root0 1 (2 ^ logn)

/-- The input set of INTTR is canonical (R127); that of INTTI and INTTIL holds `NINV` too (R113, R119). -/
def State.inverseCanonical (s : State) (logn : Nat) : Prop :=
  if s.lift = true then
    s.wordsBelowQ .buf0 0 (2 ^ (logn - 1)) ∧ s.wordsBelowQ .buf1 0 (2 ^ (logn - 1)) ∧
      s.wordsBelowQ .iroot0 1 (2 ^ (logn - 1)) ∧ s.wordsBelowQ .iroot1 1 (2 ^ (logn - 1)) ∧
      s.liftW0.toNat < s.q.toNat ∧ s.liftW1.toNat < s.q.toNat
  else s.wordsBelowQ .buf0 0 (2 ^ logn) ∧ s.wordsBelowQ .iroot0 1 (2 ^ logn)

/-- The lift root ω is invertible: its norm is not 0 modulo Q (R113). -/
def State.liftRootInvertible (s : State) : Prop :=
  (s.liftW0.toNat * s.liftW0.toNat + s.liftW1.toNat * s.liftW1.toNat) % s.q.toNat ≠ 0

/-- Word `j` of memory `M` is in the input set of the command (`60_exceptions.md` R131; `44_ntt_iterative.md` R112, R113,
R118, R119; `45_ntt_recursive.md` R126, R127). -/
def State.readsWord (s : State) (i : Instr) (M : MemId) (j : Nat) : Prop :=
  match i with
  | .ntti k | .nttil k | .nttr k =>
    (M = .buf0 ∧ j < 2 ^ k) ∨ (M = .root0 ∧ 1 ≤ j ∧ j < 2 ^ s.logL k) ∨
      (s.lift = true ∧ M = .root1 ∧ 1 ≤ j ∧ j < 2 ^ s.logL k)
  | .intti k | .inttil k | .inttr k =>
    (M = .buf0 ∧ j < 2 ^ s.logL k) ∨ (s.lift = true ∧ M = .buf1 ∧ j < 2 ^ s.logL k) ∨
      (M = .iroot0 ∧ 1 ≤ j ∧ j < 2 ^ s.logL k) ∨ (s.lift = true ∧ M = .iroot1 ∧ 1 ≤ j ∧ j < 2 ^ s.logL k)
  | .nop | .setmod | .clrerr | .fadd | .fsub | .fmul | .finv | .fsqrt => False
  | .f2add | .f2sub | .f2mul | .f2inv | .f2sqrt | .f2neg => False

/-- `M[0]`, `M[1]`, … hold the values `vs`. -/
def State.holds (t : State) (M : MemId) (vs : List Nat) : Prop :=
  ∀ j, (h : j < vs.length) → t.memWord M j = BitVec.ofNat 32 vs[j]

/-- `t` differs from `s` in memory only, with DONE set and BUSY cleared, and every byte outside the first `n0` words of
`BUF0` and the first `n1` words of `BUF1` reads as before. -/
def State.wroteBuffers (s t : State) (n0 n1 : Nat) : Prop :=
  t = { s with mem := t.mem, done := true, busy := false } ∧
  ∀ a, ¬(MemId.buf0.wordAddr 0 ≤ a ∧ a < MemId.buf0.wordAddr n0) →
    ¬(MemId.buf1.wordAddr 0 ≤ a ∧ a < MemId.buf1.wordAddr n1) → t.byteAt a = s.byteAt a

/-! ## The mathematics the transforms are held against -/

/-- A field the configuration can select: an odd prime below 2^31 (`00_scope.md` R7), with the Mersenne datapath chosen
for 2^31 - 1 alone (`10_state.md` R24, bit 5). -/
structure Modulus.Ok (F : Modulus) : Prop where
  prime : F.q.Prime
  odd : F.q % 2 = 1
  small : F.q < 2 ^ 31
  mers : F.mers = decide (F.q = Config.mersQ)

/-- `brv_k(x)`, the k-bit reversal (`00_scope.md` R10). -/
def brv : Nat → Nat → Nat
  | 0, _ => 0
  | k + 1, x => (x % 2) * 2 ^ k + brv k (x / 2)

/-- The value of the polynomial with coefficients c[0], c[1], … at x, modulo q (`43_root_table.md` R106). -/
def polyValue (q : Nat) (c : List Nat) (x : Nat) : Nat :=
  ((List.range c.length).map fun i => c.getD i 0 * x ^ i).sum % q

/-- The negacyclic convolution: the product of f and g modulo xⁿ + 1, coefficients modulo q (`00_scope.md` R18), by the
naive double sum. -/
def negacyclic (q n : Nat) (f g : List Nat) : List Nat :=
  (List.range n).map fun i =>
    (((List.range n).map fun j =>
      if j ≤ i then f.getD j 0 * g.getD (i - j) 0 else q * q - f.getD j 0 * g.getD (n + i - j) 0).sum) % q

/-- Element-by-element products modulo q, which the host does with FMUL (`44_ntt_iterative.md` R120). -/
def pointwiseMul (q : Nat) (F G : List Nat) : List Nat := List.zipWith (fun x y => x * y % q) F G

/-! ## The properties the source requires of the transforms (`44_ntt_iterative.md` R120)

"They are theorems a model should be able to prove of its definitions; none is an extra rule of behaviour." Each is named
here once, with the contract on the table that it is claimed under; the statements claim them. -/

/-- The power of an Fp2 element, by repeated products. -/
def f2pow (F : Modulus) (x : Fp2) : Nat → Fp2
  | 0 => (1, 0)
  | n + 1 => f2mul F (f2pow F x n) x

/-- A pair of canonical components. -/
def Fp2.Canonical (F : Modulus) (x : Fp2) : Prop := x.1 < F.q ∧ x.2 < F.q

/-- Two canonical pairs are inverse to each other in Fp2: their product is (1, 0). -/
def Fp2.InversePair (F : Modulus) (x y : Fp2) : Prop :=
  Fp2.Canonical F x ∧ Fp2.Canonical F y ∧ (x.1 * y.1 + (F.q * F.q - x.2 * y.2)) % F.q = 1 ∧
    (x.1 * y.2 + x.2 * y.1) % F.q = 0

/-- The contract on the table for K = Fp and network length 2^k (`43_root_table.md` R101, R103): ψ^L = -1, ROOT[j] =
ψ^brv(j), IROOT[j] its inverse, `NINV` = L⁻¹. -/
structure DirectTable (F : Modulus) (k ψ ninv : Nat) (root iroot : Nat → Nat) : Prop where
  psi : ψ ^ 2 ^ k % F.q = F.q - 1
  ninv_lt : ninv < F.q
  ninv_mul : ninv * 2 ^ k % F.q = 1
  entries : ∀ j, 1 ≤ j → j < 2 ^ k → root j = ψ ^ brv k j % F.q ∧ iroot j < F.q ∧ root j * iroot j % F.q = 1

/-- The contract on the table and the lift root for K = Fp2 and network length 2^k (R101, R103, R104): ψ^L = -1, ω^L = u,
`NINV` = L⁻¹. -/
structure LiftedTable (F : Modulus) (k : Nat) (ψ ω : Fp2) (ninv : Nat) (root iroot : Nat → Fp2) : Prop where
  psi_lt : Fp2.Canonical F ψ
  psi : f2pow F ψ (2 ^ k) = (F.q - 1, 0)
  omega_lt : Fp2.Canonical F ω
  omega : f2pow F ω (2 ^ k) = (0, 1)
  ninv_lt : ninv < F.q
  ninv_mul : ninv * 2 ^ k % F.q = 1
  entries : ∀ j, 1 ≤ j → j < 2 ^ k → root j = f2pow F ψ (brv k j) ∧ Fp2.InversePair F (root j) (iroot j)

/-- R120 (1), *Round trip*: command `f` and then command `g` complete from `s` and leave `BUF0[0..n-1]` as it was. -/
def State.RoundTrips (s : State) (k : Nat) (f g : Instr) : Prop :=
  ∃ t u, exec f s = .next t ∧ exec g t = .next u ∧ ∀ j, j < 2 ^ k → u.memWord .buf0 j = s.memWord .buf0 j

/-- R120 (2), (3) and (5), *equivalence*: from the same state two commands "leave the same state". -/
def State.EndsAlike (s : State) (f g : Instr) : Prop := exec f s = exec g s

/-- R120 (4), *Multiplicative homomorphism*, direct: the inverse network of the element-by-element product (FMUL) of two
forward networks is the negacyclic convolution. -/
def DirectHomomorphism (F : Modulus) (k ninv : Nat) (root iroot : Nat → Nat) (f g : List Nat) : Prop :=
  inttCore ninv (fpOps F) iroot k (pointwiseMul F.q (nttCore (fpOps F) root k f) (nttCore (fpOps F) root k g)) =
    negacyclic F.q (2 ^ k) f g

/-- R120 (4), lifted, n = 2·2^k: the element-by-element product is F2MUL's, the transforms are taken of the lifted
polynomials and the result is projected back. -/
def LiftedHomomorphism (F : Modulus) (k : Nat) (ω : Fp2) (ninv : Nat) (root iroot : Nat → Fp2) (f g : List Nat) : Prop :=
  ∃ im, projectSeq F ω (inttCore ninv (fp2Ops F) iroot k
      (List.zipWith (f2mul F) (nttCore (fp2Ops F) root k (liftSeq F ω (2 ^ k) f))
        (nttCore (fp2Ops F) root k (liftSeq F ω (2 ^ k) g)))) = .ok (negacyclic F.q (2 * 2 ^ k) f g, im)

end Sys2Proof.Machine
end

