-- ==== Sys2Proof/Certificates/Slice0/Obligations.lean ====
section
/-! DEFINITION. The statements about the machine, from the numbered rules of `spec/`. Where a statement gives the whole state
after a command's completion, that the hidden `CMDLATCH` keeps its word there is the model's choice (log entry 1). -/

open Sys2Proof Sys2Proof.Machine

/-! ## Reset -/

/-- `10_state.md` R43, read through the host port (`20_memory.md` R50): `ID` reads its constant and every other register
0; `irq` is 0 and nothing is in flight. `CMDLATCH` and the memories are left out: the spec gives them no value. -/
def Obligations.ResetRegistersReadAsTheSpecSays : Prop :=
  State.reset.hostRead 0x0000#16 = some (State.reset, .data 0x53464E31#32) ∧
  (∀ k, 1 ≤ k → k ≤ 17 → State.reset.hostRead (BitVec.ofNat 16 (4 * k)) = some (State.reset, .data 0#32)) ∧
  State.reset.irq = false ∧ State.reset.busy = false

/-- `70_reset_and_hazards.md` R139: in any state, also while BUSY, one atomic step gives every register its reset value.
That the memories' new contents are the free value of the next reset count, and that `CMDLATCH` is 0, are the model's
choices (log entries 3 and 1). The parameter `CFG_TABLE` is no register and stays (log entry 2). -/
def Obligations.ResetEventRestoresEveryRegister : Prop :=
  ∀ (s : State) (rest : List Event), s.agenda = .reset :: rest →
    step s = .next { State.reset with
      resets := s.resets + 1, agenda := rest, response := s.response, cfgTable := s.cfgTable } ∧
    ∀ t, step s = .next t → ∀ a, t.byteAt a = Config.unwrittenByte (s.resets + 1) a

/-! ## Encoding -/

/-- `30_encoding.md` R62: "a word w selects a command when …; in match/mask form: w selects the command iff (w & mask) =
match", LOGN being bits 11:8. -/
def Obligations.DecodeFollowsMatchAndMask : Prop :=
  ∀ (w : Word) (i : Instr), decode w = .ok i ↔
    (w &&& BitVec.ofNat 32 i.maskValue = BitVec.ofNat 32 i.matchValue ∧
      ∀ logn, i.transformLogn = some logn → logn = (w >>> 8).toNat % 16)

/-- Decode and encode agree on all twenty commands, in both directions: no bit of an encoding is dropped. The encoding is
match(M) + (k << 8) (`30_encoding.md` R66). -/
def Obligations.DecodeAndEncodeAgree : Prop :=
  (∀ i : Instr, i.wf = true → decode (encode i) = .ok i ∧
    (encode i).toNat = i.matchValue + (i.transformLogn.getD 0) * 256) ∧
  (∀ (w : Word) (i : Instr), decode w = .ok i → i.wf = true ∧ encode i = w)

/-- `30_encoding.md` R63: which words are illegal; an illegal word written to `CMD` while no error is latched is accepted
like any command (R64), and its completion step raises IllegalCommand (`60_exceptions.md` R129, R133) with no other effect.
That the hidden `CMDLATCH` keeps the word once BUSY is 0 is the model's choice (log entry 1). -/
def Obligations.IllegalWordIsAcceptedAndRaisesIllegalCommand : Prop :=
  (∀ w : Word, (∃ d, decode w = .error d) ↔
    (w.toNat / 2 ^ 12 ≠ 0 ∨
      w.toNat % 256 ∉ [0x00, 0x01, 0x02, 0x10, 0x11, 0x12, 0x13, 0x14, 0x20, 0x21, 0x22, 0x23, 0x24, 0x25,
        0x30, 0x31, 0x32, 0x33, 0x40, 0x41] ∨
      (w.toNat % 256 < 0x30 ∧ w.toNat / 256 % 16 ≠ 0))) ∧
  (∀ (s : State) (w : Word), (∃ d, decode w = .error d) → s.busy = false → s.err = false →
    s.hostWrite 0x0014#16 w = some ({ s with cmdLatch := w, busy := true, done := false }, .ok) ∧
    State.engineStep { s with cmdLatch := w, busy := true, done := false } =
      .next { s with cmdLatch := w, busy := false, done := false, err := true, errCode := 6#4, errInfo := w })

/-- A few words written out from the table decode to their commands; a sanity statement. -/
def Obligations.WrittenOutWordsDecode : Prop :=
  decodeTableWord 32 0x00000000 = some .nop ∧ decodeTableWord 32 0x00000001 = some .setmod ∧
  decodeTableWord 32 0x00000012 = some .fmul ∧ decodeTableWord 32 0x00000024 = some .f2sqrt ∧
  decodeTableWord 32 0x00000330 = some (.ntti 3) ∧ decodeTableWord 32 0x00000B32 = some (.nttil 11) ∧
  decodeTableWord 32 0x00000241 = some (.inttr 2) ∧ decodeTableWord 32 0x00000110 = none ∧
  decodeTableWord 32 0x00001030 = none

/-! ## The step -/

/-- A step runs the decoded command: when the engine moves, with BUSY = 1 and a command in `CMDLATCH`, the step is that
command's completion step (`30_encoding.md` R65). A turn given to the engine by the agenda leaves the agenda first; an
illegal word takes error entry with IllegalCommand; an idle engine changes nothing. And a command word put where the
engine takes its next command from is run by the very next step. The agenda and `withFetchWord` are the model's own (log
entries 4, 5). -/
def Obligations.StepRunsTheDecodedCommand : Prop :=
  (∀ (s : State) (i : Instr), s.busy = true → decode s.cmdLatch = .ok i → s.agenda = [] → step s = exec i s) ∧
  (∀ (s : State) (i : Instr) (rest : List Event), s.busy = true → decode s.cmdLatch = .ok i →
    s.agenda = .engine :: rest → step s = exec i { s with agenda := rest }) ∧
  (∀ (s : State) (d : DecodeError), s.busy = true → decode s.cmdLatch = .error d → s.agenda = [] →
    step s = .next (s.withError 6#4)) ∧
  (∀ s : State, s.busy = false → s.agenda = [] → step s = .next s) ∧
  (∀ (s : State) (w : Word) (i : Instr), decode w = .ok i →
    step (s.withFetchWord 32 w.toNat) = exec i { s with cmdLatch := w, busy := true, done := false })

/-- "Every accepted command completes" (`70_reset_and_hazards.md` R144): no step ends in a fault or a refusal. -/
def Obligations.EveryStepAnswersANextState : Prop :=
  (∀ s : State, ∃ t, step s = .next t) ∧
  (∀ (s : State) (i : Instr), ∃ t, exec i s = .next t ∧ t.busy = false)

/-- The invariant of the machine holds at reset. -/
def Obligations.InvariantHoldsAtReset : Prop := State.reset.Inv

/-- Every step keeps the invariant: the memories stay in canonical form and inside their addresses, the configuration
registers stay those of the table entry SETMOD takes, an error latched has its code and none latched has code 0, DONE and
ERR are never 1 together, and with an error latched only CLRERR is in flight. And no step, whatever the state, changes the
parameter `CFG_TABLE` (log entry 2). -/
def Obligations.EveryStepKeepsTheInvariant : Prop :=
  (∀ s t : State, s.Inv → step s = .next t → t.Inv) ∧ (∀ s t : State, step s = .next t → t.cfgTable = s.cfgTable)

/-! ## Memories -/

/-- A word written is the word read back, its bytes little-endian (`20_memory.md` R47), and every other word of the six
memories reads as before (R45: the memories do not overlap). -/
def Obligations.WordWrittenReadsBackAndNothingElseChanges : Prop :=
  ∀ (s : State) (M : MemId) (i : Nat) (w : Word), i < Config.nmax →
    (s.setMemWord M i w).memWord M i = w ∧
    (∀ k, k < 4 → (s.setMemWord M i w).byteAt (M.wordAddr i + k) = BitVec.ofNat 8 (w.toNat / 2 ^ (8 * k))) ∧
    (∀ (M' : MemId) (j : Nat), j < Config.nmax → (M' ≠ M ∨ j ≠ i) →
      (s.setMemWord M i w).memWord M' j = s.memWord M' j)

/-- Every word of every memory is reached through the host port at base + 4·i (`20_memory.md` R45): while not BUSY a write
stores all 32 bits of the data, whatever they are, and a read returns them and changes nothing (R50, R51). -/
def Obligations.HostPortReachesEveryMemoryWord : Prop :=
  ∀ (s : State) (M : MemId) (i : Nat) (d : Word), i < Config.nmax → s.busy = false →
    s.hostWrite (BitVec.ofNat 16 (M.wordAddr i)) d = some (s.setMemWord M i d, .ok) ∧
    s.hostRead (BitVec.ofNat 16 (M.wordAddr i)) = some (s, .data (s.memWord M i)) ∧
    (s.setMemWord M i d).hostRead (BitVec.ofNat 16 (M.wordAddr i)) = some (s.setMemWord M i d, .data d)

/-! ## The host port -/

/-- `10_state.md` R22: `ID` "reads as the constant 0x53464E31 in every state, also while BUSY and while an error is latched.
Writes get a bus error." -/
def Obligations.IdReadsItsConstantInEveryState : Prop :=
  ∀ (s : State) (d : Word), s.hostRead 0x0000#16 = some (s, .data 0x53464E31#32) ∧
    s.hostWrite 0x0000#16 d = some (s, .busError)

/-- `20_memory.md` R48: a misaligned transaction "completes with a bus error and changes nothing", before every other
check, in any state. -/
def Obligations.MisalignedTransactionGetsBusError : Prop :=
  ∀ (s : State) (addr : Addr) (d : Word), addr.toNat % 4 ≠ 0 →
    s.hostRead addr = some (s, .busError) ∧ s.hostWrite addr d = some (s, .busError)

/-- `20_memory.md` R49: the complete list of the causes of a bus error, and that one changes nothing and returns no data. A
reserved address is one at or above 0xE000, or from 0x0048 to 0x1FFF. A write to `CMD` is refused only when it is not held. -/
def Obligations.BusErrorHasExactlyItsCausesAndNoEffect : Prop :=
  ∀ (s : State) (t : Txn),
    (∀ s', s.hostTxn t = some (s', .busError) → s' = s) ∧
    ((∃ s', s.hostTxn t = some (s', .busError)) ↔
      match t with
      | .read a => a.toNat % 4 ≠ 0 ∨ (0x0048 ≤ a.toNat ∧ a.toNat < 0x2000) ∨ 0xE000 ≤ a.toNat
      | .write a d => a.toNat % 4 ≠ 0 ∨ (0x0048 ≤ a.toNat ∧ a.toNat < 0x2000) ∨ 0xE000 ≤ a.toNat ∨
          a.toNat ∈ [0x00, 0x0C, 0x10, 0x1C, 0x20, 0x40, 0x44] ∨
          (a.toNat = 0x14 ∧ s.busy = false ∧ s.err = true ∧ d ≠ 0x00000002#32))

/-- The register map of `10_state.md` R21 while not BUSY: a read returns the register and changes nothing (`20_memory.md`
R50), a write to a read-write register stores "all 32 bits of data" (R51 item 7) and changes nothing else. -/
def Obligations.RegisterMapReadsAndWritesItsRegisters : Prop :=
  ∀ (s : State) (d : Word), s.busy = false →
    s.hostRead 0x000C#16 = some (s, .data (BitVec.ofNat 32 s.errCode.toNat)) ∧
    s.hostRead 0x0010#16 = some (s, .data s.errInfo) ∧
    s.hostRead 0x0014#16 = some (s, .data 0#32) ∧
    s.hostRead 0x0018#16 = some (s, .data s.modq) ∧ s.hostWrite 0x0018#16 d = some ({ s with modq := d }, .ok) ∧
    s.hostRead 0x001C#16 = some (s, .data s.q) ∧
    s.hostRead 0x0020#16 = some (s, .data (BitVec.ofNat 32 s.maxLog.toNat)) ∧
    s.hostRead 0x0024#16 = some (s, .data s.ninv) ∧ s.hostWrite 0x0024#16 d = some ({ s with ninv := d }, .ok) ∧
    s.hostRead 0x0028#16 = some (s, .data s.liftW0) ∧ s.hostWrite 0x0028#16 d = some ({ s with liftW0 := d }, .ok) ∧
    s.hostRead 0x002C#16 = some (s, .data s.liftW1) ∧ s.hostWrite 0x002C#16 d = some ({ s with liftW1 := d }, .ok) ∧
    s.hostRead 0x0030#16 = some (s, .data s.a0) ∧ s.hostWrite 0x0030#16 d = some ({ s with a0 := d }, .ok) ∧
    s.hostRead 0x0034#16 = some (s, .data s.a1) ∧ s.hostWrite 0x0034#16 d = some ({ s with a1 := d }, .ok) ∧
    s.hostRead 0x0038#16 = some (s, .data s.b0) ∧ s.hostWrite 0x0038#16 d = some ({ s with b0 := d }, .ok) ∧
    s.hostRead 0x003C#16 = some (s, .data s.b1) ∧ s.hostWrite 0x003C#16 d = some ({ s with b1 := d }, .ok) ∧
    s.hostRead 0x0040#16 = some (s, .data s.res0) ∧
    s.hostRead 0x0044#16 = some (s, .data s.res1)

/-- `CTRL` (`10_state.md` R23): in every state, also while BUSY, a write stores bits 1:0 and nothing else, and a read
returns those two bits with the others 0. -/
def Obligations.CtrlHoldsTwoBitsAndIsNeverHeld : Prop :=
  ∀ (s : State) (d : Word),
    s.hostWrite 0x0004#16 d = some ({ s with ieDone := d.getLsbD 0, ieErr := d.getLsbD 1 }, .ok) ∧
    ∃ w, s.hostRead 0x0004#16 = some (s, .data w) ∧ w.getLsbD 0 = s.ieDone ∧ w.getLsbD 1 = s.ieErr ∧
      ∀ k, 2 ≤ k → w.getLsbD k = false

/-- `STATUS` (`10_state.md` R24): a read, also while BUSY, shows the six flags at bits 0 to 5 and 0 above; a write while
not BUSY clears DONE exactly when data bit 1 is 1 and ignores every other bit. -/
def Obligations.StatusShowsItsFlagsAndWritesClearDoneOnly : Prop :=
  ∀ (s : State) (d : Word),
    (∃ w, s.hostRead 0x0008#16 = some (s, .data w) ∧ w.getLsbD 0 = s.busy ∧ w.getLsbD 1 = s.done ∧
      w.getLsbD 2 = s.err ∧ w.getLsbD 3 = s.cfgValid ∧ w.getLsbD 4 = s.lift ∧ w.getLsbD 5 = s.mers ∧
      ∀ k, 6 ≤ k → w.getLsbD k = false) ∧
    (s.busy = false →
      s.hostWrite 0x0008#16 d = some ({ s with done := if d.getLsbD 1 then false else s.done }, .ok))

/-- The interrupt line at its sources (`60_exceptions.md` R136): with `CTRL` = 3 written, `irq` follows DONE or ERR; with 0,
it is 0; clearing DONE by the write of 1 to bit 1 of `STATUS` drops the completion source. -/
def Obligations.IrqFollowsDoneAndErrThroughTheEnables : Prop :=
  ∀ s : State,
    ((s.writeCtrl 3#32).irq = (s.done || s.err)) ∧ ((s.writeCtrl 0#32).irq = false) ∧
    ((s.writeCtrl 1#32).irq = s.done) ∧ ((s.writeCtrl 2#32).irq = s.err) ∧
    (((s.writeCtrl 1#32).writeStatus 2#32).irq = false)

/-- `30_encoding.md` R64: a write to `CMD` when BUSY = 0. -/
def Obligations.CommandLaunchAcceptsOrRefuses : Prop :=
  ∀ (s : State) (w : Word), s.busy = false →
    s.hostWrite 0x0014#16 w =
      if s.err = true ∧ w ≠ 0x00000002#32 then some (s, .busError)
      else some ({ s with cmdLatch := w, busy := true, done := false }, .ok)

/-- The BUSY hold (`20_memory.md` R53): while BUSY exactly the listed transactions complete. Every other is held: the step
is the engine's completion step, and the transaction is still the next on the agenda, to be performed after it. That the
step is then the engine's is the model's reading of "the completion step always happens" (log entry 4). -/
def Obligations.BusyHoldsEverythingElse : Prop :=
  ∀ (s : State) (t : Txn), s.busy = true →
    (s.hostTxn t = none ↔
      match t with
      | .read a => a.toNat % 4 = 0 ∧ a.toNat ∉ [0x00, 0x04, 0x08, 0x0C, 0x10] ∧
          (a.toNat < 0x0048 ∨ (0x2000 ≤ a.toNat ∧ a.toNat < 0xE000))
      | .write a _ => a.toNat % 4 = 0 ∧ a.toNat ∉ [0x00, 0x04, 0x0C, 0x10, 0x1C, 0x20, 0x40, 0x44] ∧
          (a.toNat < 0x0048 ∨ (0x2000 ≤ a.toNat ∧ a.toNat < 0xE000))) ∧
    (s.hostTxn t = none → ∀ rest, s.agenda = .host t :: rest →
      step s = s.runCommand ∧ ∃ u, step s = .next u ∧ u.busy = false ∧ u.agenda = .host t :: rest)

/-- A transaction that completes is one step: its effect, its response recorded, and the agenda moved on (the model's own
fields, log entry 4). While BUSY it
changes nothing of the block but the two bits of `CTRL` (`20_memory.md` R54). -/
def Obligations.CompletedTransactionIsOneStep : Prop :=
  ∀ (s : State) (t : Txn) (s' : State) (r : Response) (rest : List Event),
    s.agenda = .host t :: rest → s.hostTxn t = some (s', r) →
    step s = .next { s' with agenda := rest, response := some r } ∧
    (s.busy = true → s' = { s with ieDone := s'.ieDone, ieErr := s'.ieErr })

/-! ## Errors -/

/-- `60_exceptions.md` R134: "Errors are precise." A command that raises an error leaves exactly ERR, ERRCODE, ERRINFO and
the life cycle's flags changed, against the state before the `CMD` write; ERRCODE holds a code of R129. That the hidden
`CMDLATCH` keeps the word once BUSY is 0 is the model's choice (log entry 1). -/
def Obligations.ErrorsArePrecise : Prop :=
  ∀ (s : State) (w : Word) (t : State), s.err = false → s.busy = false →
    State.engineStep { s with cmdLatch := w, busy := true, done := false } = .next t → t.err = true →
    ∃ c : BitVec 4, 1 ≤ c.toNat ∧ c.toNat ≤ 7 ∧
      t = { s with cmdLatch := w, done := false, err := true, errCode := c, errInfo := w }

/-- Rank 2 of `60_exceptions.md` R132: every command except NOP, SETMOD, CLRERR raises UnsupportedModulus when no modulus
is configured. -/
def Obligations.CommandsNeedAConfiguredModulus : Prop :=
  ∀ (i : Instr) (s : State), i ≠ .nop → i ≠ .setmod → i ≠ .clrerr → s.cfgValid = false →
    exec i s = .next (s.withError 3#4)

/-- Rank 3 of `60_exceptions.md` R132, whatever the length and the operands: FSQRT and the six Fp2 commands need Q mod 4 =
3, the lazy transforms Q = 12289. -/
def Obligations.CommandsNeedTheirModulusStructure : Prop :=
  (∀ (i : Instr) (s : State), (i = .fsqrt ∨ i.isFp2 = true) → s.cfgValid = true → s.q.toNat % 4 ≠ 3 →
    exec i s = .next (s.withError 3#4)) ∧
  (∀ (k : Nat) (s : State), s.cfgValid = true → s.q.toNat ≠ 12289 →
    exec (.nttil k) s = .next (s.withError 3#4) ∧ exec (.inttil k) s = .next (s.withError 3#4))

/-- Rank 4, the length check (`60_exceptions.md` R130): a transform of a length that is not allowed raises InvalidLength,
whatever the operands. "LOGN values 12 to 15 always fail"; a length that passes has n ≤ 2048. -/
def Obligations.TransformsOfOtherLengthsRaiseInvalidLength : Prop :=
  (∀ (i : Instr) (k : Nat) (s : State), i.transformLogn = some k → s.cfgValid = true →
    ((∃ l, i = .nttil l ∨ i = .inttil l) → s.q.toNat = 12289) → ¬s.lengthAllowed k →
    exec i s = .next (s.withError 1#4)) ∧
  (∀ (k : Nat) (s : State), s.Inv → s.lengthAllowed k → k < 12 ∧ 2 ^ k ≤ Config.nmax)

/-- Rank 5, the canonical-input check (`60_exceptions.md` R131), of the scalar commands: a word of the input set that is Q
or more raises NonCanonical, before NotInvertible and NotASquare. -/
def Obligations.NonCanonicalOperandsAreRefused : Prop :=
  ∀ (i : Instr) (s : State), s.cfgValid = true →
    (((i = .fadd ∨ i = .fsub ∨ i = .fmul) → s.q.toNat ≤ s.a0.toNat ∨ s.q.toNat ≤ s.b0.toNat →
      exec i s = .next (s.withError 4#4)) ∧
    (i = .finv ∨ (i = .fsqrt ∧ s.q.toNat % 4 = 3) → s.q.toNat ≤ s.a0.toNat → exec i s = .next (s.withError 4#4)) ∧
    ((i = .f2inv ∨ i = .f2sqrt ∨ i = .f2neg) → s.q.toNat % 4 = 3 → s.q.toNat ≤ s.a0.toNat ∨ s.q.toNat ≤ s.a1.toNat →
      exec i s = .next (s.withError 4#4)) ∧
    ((i = .f2add ∨ i = .f2sub ∨ i = .f2mul) → s.q.toNat % 4 = 3 →
      s.q.toNat ≤ s.a0.toNat ∨ s.q.toNat ≤ s.a1.toNat ∨ s.q.toNat ≤ s.b0.toNat ∨ s.q.toNat ≤ s.b1.toNat →
      exec i s = .next (s.withError 4#4)))

/-- Rank 5 of the transforms: with the length allowed, an input set that is not canonical raises NonCanonical
(`44_ntt_iterative.md` R107 check 4). -/
def Obligations.NonCanonicalVectorsAreRefused : Prop :=
  ∀ (k : Nat) (s : State), s.cfgValid = true → s.lengthAllowed k →
    (¬s.forwardCanonical k → exec (.ntti k) s = .next (s.withError 4#4) ∧ exec (.nttr k) s = .next (s.withError 4#4) ∧
      (s.q.toNat = 12289 → s.lift = false → exec (.nttil k) s = .next (s.withError 4#4))) ∧
    (¬s.inverseCanonical k → exec (.inttr k) s = .next (s.withError 4#4)) ∧
    (¬(s.inverseCanonical k ∧ s.ninv.toNat < s.q.toNat) → exec (.intti k) s = .next (s.withError 4#4) ∧
      (s.q.toNat = 12289 → s.lift = false → exec (.inttil k) s = .next (s.withError 4#4)))

/-- NotInvertible of the lifted inverses (`44_ntt_iterative.md` R113): an ω of norm 0, found after every other check. -/
def Obligations.LiftedInverseNeedsAnInvertibleLiftRoot : Prop :=
  ∀ (k : Nat) (s : State), s.Inv → s.cfgValid = true → s.lift = true → s.lengthAllowed k → s.inverseCanonical k →
    ¬s.liftRootInvertible →
    exec (.inttr k) s = .next (s.withError 2#4) ∧
    (s.ninv.toNat < s.q.toNat → exec (.intti k) s = .next (s.withError 2#4))

/-! ## System commands -/

/-- NOP (`40_system.md` R68) changes nothing but the life cycle's flags. CLRERR (R70, `60_exceptions.md` R135) clears ERR,
ERRCODE and ERRINFO and "restores nothing else". -/
def Obligations.NopAndClrerrChangeOnlyTheirFlags : Prop :=
  ∀ s : State,
    exec .nop s = .next { s with done := true, busy := false } ∧
    exec .clrerr s = .next { s with err := false, errCode := 0#4, errInfo := 0#32, done := true, busy := false }

/-- SETMOD (`40_system.md` R69) from any table: with the chosen entry it writes the configuration and nothing else; with
none it raises UnsupportedModulus, "the previous configuration, if any, stays in force and `MODQ` keeps the rejected value".
And with the default table (`00_scope.md` R7), the five moduli and what each leaves, every other modulus refused. -/
def Obligations.SetmodConfiguresTheTableModuliAndRefusesOthers : Prop :=
  ∀ s : State,
    (∀ e, chooseModulus s.cfgTable s.modq.toNat = .ok e →
      exec .setmod s = .next { s with q := s.modq, maxLog := BitVec.ofNat 4 e.maxLog, cfgValid := true, lift := decide (ctzNat (s.modq.toNat - 1) < e.maxLog + 1), mers := decide (s.modq = 2147483647#32), done := true, busy := false }) ∧
    (∀ c, chooseModulus s.cfgTable s.modq.toNat = .error c → exec .setmod s = .next (s.withError 3#4)) ∧
    (s.cfgTable = Config.cfgTable →
      (s.modq = 12289#32 → exec .setmod s = .next { s with q := 12289#32, maxLog := 11#4, cfgValid := true, lift := false, mers := false, done := true, busy := false }) ∧
      (s.modq = 8380417#32 → exec .setmod s = .next { s with q := 8380417#32, maxLog := 9#4, cfgValid := true, lift := false, mers := false, done := true, busy := false }) ∧
      (s.modq = 2013265921#32 → exec .setmod s = .next { s with q := 2013265921#32, maxLog := 9#4, cfgValid := true, lift := false, mers := false, done := true, busy := false }) ∧
      (s.modq = 2130706433#32 → exec .setmod s = .next { s with q := 2130706433#32, maxLog := 9#4, cfgValid := true, lift := false, mers := false, done := true, busy := false }) ∧
      (s.modq = 2147483647#32 → exec .setmod s = .next { s with q := 2147483647#32, maxLog := 9#4, cfgValid := true, lift := true, mers := true, done := true, busy := false }) ∧
      (s.modq.toNat ∉ [12289, 8380417, 2013265921, 2130706433, 2147483647] → exec .setmod s = .next (s.withError 3#4)))

/-- SETMOD's choice from any table (R69): the first entry with the modulus, refused if its two-adicity is below
max_log2_n + 1 and q mod 4 is not 3. -/
def Obligations.SetmodTakesTheFirstMatchWithItsStructure : Prop :=
  ∀ (table : List Config.ModEntry) (q : Nat) (e : Config.ModEntry),
    chooseModulus table q = .ok e ↔
      (∃ before after, table = before ++ e :: after ∧ (∀ e' ∈ before, e'.q ≠ q)) ∧ e.q = q ∧
      ¬(ctzNat (q - 1) < e.maxLog + 1 ∧ q % 4 ≠ 3)

/-- `ctz` is "the largest k with 2^k dividing x" (`00_scope.md` R10), which is what the two-adicity of a modulus is. -/
def Obligations.TrailingZerosIsTheLargestPowerOfTwo : Prop :=
  ∀ x : Nat, 0 < x → 2 ^ ctzNat x ∣ x ∧ ∀ k, 2 ^ k ∣ x → k ≤ ctzNat x

/-- The default table meets what R7 asks of any table, and is the machine's table right after reset; and with any such table
every configuration of a state with the invariant is a field the mathematics applies to. -/
def Obligations.DefaultTableMeetsItsConstraints : Prop :=
  (∀ e ∈ Config.cfgTable, entryOk e) ∧ State.reset.cfgTable = Config.cfgTable ∧
  (∀ s : State, s.Inv → s.cfgValid = true → s.modulus.Ok)

/-! ## Prime field -/

/-- FADD and FSUB (`41_fp.md` R80, R81): for canonical operands under any configured modulus, `RES0` is the residue of the
sum or difference (R71) and nothing else changes. -/
def Obligations.FaddAndFsubWriteTheResidue : Prop :=
  ∀ s : State, s.cfgValid = true → s.a0.toNat < s.q.toNat → s.b0.toNat < s.q.toNat →
    exec .fadd s = .next { s with res0 := BitVec.ofNat 32 ((s.a0.toNat + s.b0.toNat) % s.q.toNat), done := true, busy := false } ∧
    exec .fsub s = .next { s with res0 := BitVec.ofNat 32 ((s.a0.toNat + (s.q.toNat - s.b0.toNat)) % s.q.toNat), done := true, busy := false }

/-- FMUL (`41_fp.md` R82): both datapaths of R75 give the residue of the product. -/
def Obligations.FmulWritesTheResidueOnBothDatapaths : Prop :=
  ∀ s : State, s.Inv → s.cfgValid = true → s.a0.toNat < s.q.toNat → s.b0.toNat < s.q.toNat →
    exec .fmul s = .next { s with res0 := BitVec.ofNat 32 (s.a0.toNat * s.b0.toNat % s.q.toNat), done := true, busy := false }

/-- FINV (`41_fp.md` R83): the inverse of a nonzero operand, NotInvertible at 0. `B0` may hold anything. -/
def Obligations.FinvWritesTheInverse : Prop :=
  ∀ s : State, s.Inv → s.cfgValid = true → s.a0.toNat < s.q.toNat →
    (s.a0 ≠ 0#32 → ∃ r, r < s.q.toNat ∧ r * s.a0.toNat % s.q.toNat = 1 ∧
      exec .finv s = .next { s with res0 := BitVec.ofNat 32 r, done := true, busy := false }) ∧
    (s.a0 = 0#32 → exec .finv s = .next (s.withError 2#4))

/-- Repeated squaring gives the power (`41_fp.md` R77), in every field a configuration can select. -/
def Obligations.PowerBySquaringIsThePower : Prop :=
  ∀ (F : Modulus) (a e : Nat), F.Ok → a < F.q → fpow F a e = a ^ e % F.q

/-- FSQRT (`41_fp.md` R84) for q ≡ 3 mod 4: the root of a residue "is the one that is itself a residue"; a non-residue
raises NotASquare. -/
def Obligations.FsqrtWritesTheRootOrRaisesNotASquare : Prop :=
  ∀ s : State, s.Inv → s.cfgValid = true → s.q.toNat % 4 = 3 → s.a0.toNat < s.q.toNat →
    ((∃ y, y * y % s.q.toNat = s.a0.toNat) →
      ∃ r, r < s.q.toNat ∧ r * r % s.q.toNat = s.a0.toNat ∧ (∃ z, z * z % s.q.toNat = r) ∧
        exec .fsqrt s = .next { s with res0 := BitVec.ofNat 32 r, done := true, busy := false }) ∧
    ((¬∃ y, y * y % s.q.toNat = s.a0.toNat) → exec .fsqrt s = .next (s.withError 5#4))

/-! ## Extension field -/

/-- F2ADD, F2SUB, F2NEG (`42_fp2.md` R91, R92, R96): componentwise residues, "a zero component stays 0" under negation. -/
def Obligations.F2addF2subF2negWriteTheResidues : Prop :=
  ∀ s : State, s.cfgValid = true → s.q.toNat % 4 = 3 → s.a0.toNat < s.q.toNat → s.a1.toNat < s.q.toNat →
    (s.b0.toNat < s.q.toNat → s.b1.toNat < s.q.toNat →
      exec .f2add s = .next { s with res0 := BitVec.ofNat 32 ((s.a0.toNat + s.b0.toNat) % s.q.toNat), res1 := BitVec.ofNat 32 ((s.a1.toNat + s.b1.toNat) % s.q.toNat), done := true, busy := false } ∧
      exec .f2sub s = .next { s with res0 := BitVec.ofNat 32 ((s.a0.toNat + (s.q.toNat - s.b0.toNat)) % s.q.toNat), res1 := BitVec.ofNat 32 ((s.a1.toNat + (s.q.toNat - s.b1.toNat)) % s.q.toNat), done := true, busy := false }) ∧
    exec .f2neg s = .next { s with res0 := BitVec.ofNat 32 ((s.q.toNat - s.a0.toNat) % s.q.toNat), res1 := BitVec.ofNat 32 ((s.q.toNat - s.a1.toNat) % s.q.toNat), done := true, busy := false }

/-- F2MUL (`42_fp2.md` R93): "complex multiplication under u²=-1". -/
def Obligations.F2mulWritesTheProduct : Prop :=
  ∀ s : State, s.Inv → s.cfgValid = true → s.q.toNat % 4 = 3 → s.a0.toNat < s.q.toNat → s.a1.toNat < s.q.toNat →
    s.b0.toNat < s.q.toNat → s.b1.toNat < s.q.toNat →
    exec .f2mul s = .next { s with
      res0 := BitVec.ofNat 32 ((s.a0.toNat * s.b0.toNat + (s.q.toNat * s.q.toNat - s.a1.toNat * s.b1.toNat)) % s.q.toNat)
      res1 := BitVec.ofNat 32 ((s.a0.toNat * s.b1.toNat + s.a1.toNat * s.b0.toNat) % s.q.toNat)
      done := true, busy := false }

/-- F2INV (`42_fp2.md` R94): for x ≠ (0, 0) a pair whose product with x is (1, 0); NotInvertible at (0, 0). -/
def Obligations.F2invWritesTheInverse : Prop :=
  ∀ s : State, s.Inv → s.cfgValid = true → s.q.toNat % 4 = 3 → s.a0.toNat < s.q.toNat → s.a1.toNat < s.q.toNat →
    (¬(s.a0 = 0#32 ∧ s.a1 = 0#32) → ∃ r0 r1, r0 < s.q.toNat ∧ r1 < s.q.toNat ∧
      (r0 * s.a0.toNat + (s.q.toNat * s.q.toNat - r1 * s.a1.toNat)) % s.q.toNat = 1 ∧
      (r0 * s.a1.toNat + r1 * s.a0.toNat) % s.q.toNat = 0 ∧
      exec .f2inv s = .next { s with res0 := BitVec.ofNat 32 r0, res1 := BitVec.ofNat 32 r1, done := true, busy := false }) ∧
    (s.a0 = 0#32 → s.a1 = 0#32 → exec .f2inv s = .next (s.withError 2#4))

/-- F2SQRT (`42_fp2.md` R95): "whenever the function returns r, f2mul(r, r) = x; it raises exactly when x is not a square in
Fp2" (R89). "Which of the two roots ±r is returned is fixed by the pseudocode": in the scalar case the nonzero component is
x1^((q + 1) div 4); else the second component is itself a residue of Fp, which only one of the two roots has. -/
def Obligations.F2sqrtWritesARootOrRaisesNotASquare : Prop :=
  ∀ s : State, s.Inv → s.cfgValid = true → s.q.toNat % 4 = 3 → s.a0.toNat < s.q.toNat → s.a1.toNat < s.q.toNat →
    ((∃ y0 y1, y0 < s.q.toNat ∧ y1 < s.q.toNat ∧
        (y0 * y0 + (s.q.toNat * s.q.toNat - y1 * y1)) % s.q.toNat = s.a0.toNat ∧
        2 * y0 * y1 % s.q.toNat = s.a1.toNat) →
      ∃ r0 r1, r0 < s.q.toNat ∧ r1 < s.q.toNat ∧
        (r0 * r0 + (s.q.toNat * s.q.toNat - r1 * r1)) % s.q.toNat = s.a0.toNat ∧
        2 * r0 * r1 % s.q.toNat = s.a1.toNat ∧
        (s.a1 = 0#32 → (r1 = 0 ∧ r0 = s.a0.toNat ^ ((s.q.toNat + 1) / 4) % s.q.toNat) ∨
          (r0 = 0 ∧ r1 = s.a0.toNat ^ ((s.q.toNat + 1) / 4) % s.q.toNat)) ∧
        (s.a1 ≠ 0#32 → ∃ z, z * z % s.q.toNat = r1) ∧
        exec .f2sqrt s = .next { s with res0 := BitVec.ofNat 32 r0, res1 := BitVec.ofNat 32 r1, done := true, busy := false }) ∧
    ((¬∃ y0 y1, y0 < s.q.toNat ∧ y1 < s.q.toNat ∧
        (y0 * y0 + (s.q.toNat * s.q.toNat - y1 * y1)) % s.q.toNat = s.a0.toNat ∧
        2 * y0 * y1 % s.q.toNat = s.a1.toNat) →
      exec .f2sqrt s = .next (s.withError 5#4))

/-! ## Transforms -/

/-- NTTI and NTTR complete for every allowed length and canonical input set, in both configurations, and write exactly what
`44_ntt_iterative.md` R112 and `45_ntt_recursive.md` R126 name: direct `BUF0[0..n-1]`; lifted `BUF0[0..L-1]` and
`BUF1[0..L-1]`, "`BUF0[L..n-1]` keeps the upper coefficients it held". -/
def Obligations.ForwardTransformsWriteTheirNetworks : Prop :=
  ∀ (s : State) (k : Nat), s.Inv → s.cfgValid = true → s.lengthAllowed k → s.forwardCanonical k →
    (s.lift = false →
      (∃ t, exec (.ntti k) s = .next t ∧ s.wroteBuffers t (2 ^ k) 0 ∧
        (nttCore (fpOps s.modulus) s.rootFp k (s.bufFp (2 ^ k))).length = 2 ^ k ∧
        t.holds .buf0 (nttCore (fpOps s.modulus) s.rootFp k (s.bufFp (2 ^ k)))) ∧
      (∃ t, exec (.nttr k) s = .next t ∧ s.wroteBuffers t (2 ^ k) 0 ∧
        (nttRec (fpOps s.modulus) s.rootFp k (s.bufFp (2 ^ k))).length = 2 ^ k ∧
        t.holds .buf0 (nttRec (fpOps s.modulus) s.rootFp k (s.bufFp (2 ^ k))))) ∧
    (s.lift = true →
      (∃ t F, exec (.ntti k) s = .next t ∧ s.wroteBuffers t (2 ^ (k - 1)) (2 ^ (k - 1)) ∧
        F = nttCore (fp2Ops s.modulus) s.rootFp2 (k - 1) (liftSeq s.modulus s.liftRoot (2 ^ (k - 1)) (s.bufFp (2 ^ k))) ∧
        F.length = 2 ^ (k - 1) ∧ t.holds .buf0 (F.map fun x => x.1) ∧ t.holds .buf1 (F.map fun x => x.2)) ∧
      (∃ t F, exec (.nttr k) s = .next t ∧ s.wroteBuffers t (2 ^ (k - 1)) (2 ^ (k - 1)) ∧
        F = nttRec (fp2Ops s.modulus) s.rootFp2 (k - 1) (liftSeq s.modulus s.liftRoot (2 ^ (k - 1)) (s.bufFp (2 ^ k))) ∧
        F.length = 2 ^ (k - 1) ∧ t.holds .buf0 (F.map fun x => x.1) ∧ t.holds .buf1 (F.map fun x => x.2)))

/-- INTTI and INTTR complete likewise (`44_ntt_iterative.md` R113, `45_ntt_recursive.md` R127), the first with `NINV`
canonical: direct `BUF0[0..n-1]`; lifted, with ω invertible, `BUF0[0..n-1]` and `BUF1[0..L-1]`, "so that afterwards
`BUF1[i]` = fneg(`BUF0[i+L]`)". -/
def Obligations.InverseTransformsWriteTheirNetworks : Prop :=
  ∀ (s : State) (k : Nat), s.Inv → s.cfgValid = true → s.lengthAllowed k → s.inverseCanonical k →
    (s.lift = false →
      (s.ninv.toNat < s.q.toNat → ∃ t, exec (.intti k) s = .next t ∧ s.wroteBuffers t (2 ^ k) 0 ∧
        (inttCore s.ninv.toNat (fpOps s.modulus) s.irootFp k (s.bufFp (2 ^ k))).length = 2 ^ k ∧
        t.holds .buf0 (inttCore s.ninv.toNat (fpOps s.modulus) s.irootFp k (s.bufFp (2 ^ k)))) ∧
      (∃ t, exec (.inttr k) s = .next t ∧ s.wroteBuffers t (2 ^ k) 0 ∧
        (inttRec s.modulus.inv2 (fpOps s.modulus) s.irootFp k (s.bufFp (2 ^ k))).length = 2 ^ k ∧
        t.holds .buf0 (inttRec s.modulus.inv2 (fpOps s.modulus) s.irootFp k (s.bufFp (2 ^ k))))) ∧
    (s.lift = true → s.liftRootInvertible →
      (s.ninv.toNat < s.q.toNat → ∃ t c im, exec (.intti k) s = .next t ∧ s.wroteBuffers t (2 ^ k) (2 ^ (k - 1)) ∧
        projectSeq s.modulus s.liftRoot
          (inttCore s.ninv.toNat (fp2Ops s.modulus) s.irootFp2 (k - 1) (s.bufFp2 (2 ^ (k - 1)))) = .ok (c, im) ∧
        c.length = 2 ^ k ∧ im.length = 2 ^ (k - 1) ∧ t.holds .buf0 c ∧ t.holds .buf1 im ∧
        ∀ i, i < 2 ^ (k - 1) → t.memNat .buf1 i = fneg s.modulus (t.memNat .buf0 (i + 2 ^ (k - 1)))) ∧
      (∃ t c im, exec (.inttr k) s = .next t ∧ s.wroteBuffers t (2 ^ k) (2 ^ (k - 1)) ∧
        projectSeq s.modulus s.liftRoot
          (inttRec s.modulus.inv2 (fp2Ops s.modulus) s.irootFp2 (k - 1) (s.bufFp2 (2 ^ (k - 1)))) = .ok (c, im) ∧
        c.length = 2 ^ k ∧ im.length = 2 ^ (k - 1) ∧ t.holds .buf0 c ∧ t.holds .buf1 im ∧
        ∀ i, i < 2 ^ (k - 1) → t.memNat .buf1 i = fneg s.modulus (t.memNat .buf0 (i + 2 ^ (k - 1)))))

/-- NTTIL and INTTIL complete at Q = 12289 for every allowed length and canonical input set: LazyOverflow "cannot occur", and
what they write is what the reduced networks give (`44_ntt_iterative.md` R117, R118, R119). -/
def Obligations.LazyTransformsCompleteAndAgreeWithTheReducedNetworks : Prop :=
  ∀ (s : State) (k : Nat), s.Inv → s.cfgValid = true → s.q.toNat = 12289 → s.lengthAllowed k →
    (s.forwardCanonical k → ∃ t, exec (.nttil k) s = .next t ∧ s.wroteBuffers t (2 ^ k) 0 ∧
      t.holds .buf0 (nttCore (fpOps s.modulus) s.rootFp k (s.bufFp (2 ^ k)))) ∧
    (s.inverseCanonical k → s.ninv.toNat < s.q.toNat → ∃ t, exec (.inttil k) s = .next t ∧
      s.wroteBuffers t (2 ^ k) 0 ∧
      t.holds .buf0 (inttCore s.ninv.toNat (fpOps s.modulus) s.irootFp k (s.bufFp (2 ^ k))))

/-- `45_ntt_recursive.md` R128 (a), `44_ntt_iterative.md` R120 (2): "for every state, NTTR k and NTTI k end in the same
state (same error or same buffer contents), whatever the table holds". -/
def Obligations.ForwardEnginesEndInTheSameState : Prop :=
  ∀ (s : State) (k : Nat), s.EndsAlike (.nttr k) (.ntti k)

/-- `45_ntt_recursive.md` R128 (b), `44_ntt_iterative.md` R120 (2): with `NINV` canonical and equal to INV2^(log2 L) mod Q,
INTTR k and INTTI k end in the same state, whatever the table holds. -/
def Obligations.InverseEnginesEndInTheSameState : Prop :=
  ∀ (s : State) (k : Nat), s.Inv →
    s.ninv.toNat = ((s.q.toNat + 1) / 2) ^ (if s.lift = true then k - 1 else k) % s.q.toNat →
    s.EndsAlike (.inttr k) (.intti k)

/-- The lazy path is indistinguishable from the reduced path (`44_ntt_iterative.md` R117, R120 (3);
`70_reset_and_hazards.md` R145): at Q = 12289, from every state with the invariant, the same end state, errors included. -/
def Obligations.LazyPathIsIndistinguishable : Prop :=
  ∀ (s : State) (k : Nat), s.Inv → s.q.toNat = 12289 →
    s.EndsAlike (.nttil k) (.ntti k) ∧ s.EndsAlike (.inttil k) (.intti k)

/-- Round trip in the direct configuration (`44_ntt_iterative.md` R120 (1)), with any mix of the two engines: the table
entries are inverse to each other and `NINV`·n = 1 modulo Q. -/
def Obligations.RoundTripDirect : Prop :=
  ∀ (s : State) (k : Nat) (f g : Instr), s.Inv → s.cfgValid = true → s.lift = false → s.lengthAllowed k →
    s.forwardCanonical k → s.wordsBelowQ .iroot0 1 (2 ^ k) → s.ninv.toNat < s.q.toNat →
    (∀ j, 1 ≤ j → j < 2 ^ k → s.memNat .root0 j * s.memNat .iroot0 j % s.q.toNat = 1) →
    s.ninv.toNat * 2 ^ k % s.q.toNat = 1 →
    (f = .ntti k ∨ f = .nttr k) → (g = .intti k ∨ g = .inttr k) → s.RoundTrips k f g

/-- Round trip in the lifted configuration (R120 (1); `43_root_table.md` R104: "any ω with non-zero norm suffices"): the
table entries are inverse to each other in Fp2 and `NINV`·L = 1 modulo Q, L = n/2. -/
def Obligations.RoundTripLifted : Prop :=
  ∀ (s : State) (k : Nat) (f g : Instr), s.Inv → s.cfgValid = true → s.lift = true → s.lengthAllowed k →
    s.forwardCanonical k → s.wordsBelowQ .iroot0 1 (2 ^ (k - 1)) → s.wordsBelowQ .iroot1 1 (2 ^ (k - 1)) →
    s.ninv.toNat < s.q.toNat → s.liftRootInvertible →
    (∀ j, 1 ≤ j → j < 2 ^ (k - 1) →
      (s.memNat .root0 j * s.memNat .iroot0 j +
        (s.q.toNat * s.q.toNat - s.memNat .root1 j * s.memNat .iroot1 j)) % s.q.toNat = 1 ∧
      (s.memNat .root0 j * s.memNat .iroot1 j + s.memNat .root1 j * s.memNat .iroot0 j) % s.q.toNat = 0) →
    s.ninv.toNat * 2 ^ (k - 1) % s.q.toNat = 1 →
    (f = .ntti k ∨ f = .nttr k) → (g = .intti k ∨ g = .inttr k) → s.RoundTrips k f g

/-- What the direct forward transform means (`43_root_table.md` R101, R106): with ROOT[j] = ψ^brv(j) and ψ^n = -1, word j of
the result is the value of the input polynomial at ψ^(2·brv(j)+1). -/
def Obligations.DirectTransformEvaluatesThePolynomial : Prop :=
  ∀ (s : State) (k ψ : Nat), s.Inv → s.cfgValid = true → s.lift = false → s.lengthAllowed k → s.forwardCanonical k →
    ψ ^ 2 ^ k % s.q.toNat = s.q.toNat - 1 →
    (∀ j, 1 ≤ j → j < 2 ^ k → s.memNat .root0 j = ψ ^ brv k j % s.q.toNat) →
    ∃ t, exec (.ntti k) s = .next t ∧
      ∀ j, j < 2 ^ k → t.memNat .buf0 j = polyValue s.q.toNat (s.bufFp (2 ^ k)) (ψ ^ (2 * brv k j + 1))

/-- The multiplicative homomorphism (`44_ntt_iterative.md` R120 (4)), in both configurations: under the contract on the
table, and lifted on the lift root, the inverse transform of the element-by-element product of two transforms is the
negacyclic convolution. -/
def Obligations.PointwiseProductIsNegacyclicConvolution : Prop :=
  (∀ (F : Modulus) (k ψ ninv : Nat) (root iroot : Nat → Nat) (f g : List Nat), F.Ok → 1 ≤ k →
    f.length = 2 ^ k → g.length = 2 ^ k → (∀ x ∈ f, x < F.q) → (∀ x ∈ g, x < F.q) →
    DirectTable F k ψ ninv root iroot → DirectHomomorphism F k ninv root iroot f g) ∧
  (∀ (F : Modulus) (k : Nat) (ψ ω : Fp2) (ninv : Nat) (root iroot : Nat → Fp2) (f g : List Nat), F.Ok → F.q % 4 = 3 →
    1 ≤ k → f.length = 2 * 2 ^ k → g.length = 2 * 2 ^ k → (∀ x ∈ f, x < F.q) → (∀ x ∈ g, x < F.q) →
    LiftedTable F k ψ ω ninv root iroot → LiftedHomomorphism F k ω ninv root iroot f g)

/-- "For every invertible ω, project(lift(c)) returns c" (`44_ntt_iterative.md` R111), for every field with q ≡ 3 mod 4. -/
def Obligations.ProjectUndoesLift : Prop :=
  ∀ (F : Modulus) (ω : Fp2) (L : Nat) (c : List Nat), F.Ok → F.q % 4 = 3 → ω.1 < F.q → ω.2 < F.q → ω ≠ (0, 0) →
    c.length = 2 * L → (∀ x ∈ c, x < F.q) →
    ∃ im, projectSeq F ω (liftSeq F ω L c) = .ok (c, im) ∧ im = (c.drop L).map (fneg F)

/-- The step functions of the recursive engine undo each other (`45_ntt_recursive.md` R121, R123), for sequences of elements
of K: merge after split, for elements of any kind, and split_ntt after merge_ntt, for K = Fp and for K = Fp2, when the table
entries of that sub-length are inverse to each other. -/
def Obligations.RecursiveStepsUndoEachOther : Prop :=
  (∀ (α : Type) (f : List α), f.length % 2 = 0 → mergeSeq (splitSeq f).1 (splitSeq f).2 = f) ∧
  (∀ (F : Modulus) (root iroot : Nat → Nat) (F0 F1 : List Nat), F.Ok → F0.length = F1.length →
    (∀ x ∈ F0, x < F.q) → (∀ x ∈ F1, x < F.q) →
    (∀ i, i < F0.length → root (F0.length + i) < F.q ∧ iroot (F0.length + i) < F.q ∧
      root (F0.length + i) * iroot (F0.length + i) % F.q = 1) →
    splitNtt F.inv2 (fpOps F) iroot (mergeNtt (fpOps F) root F0 F1) = (F0, F1)) ∧
  (∀ (F : Modulus) (root iroot : Nat → Fp2) (F0 F1 : List Fp2), F.Ok → F0.length = F1.length →
    (∀ x ∈ F0, Fp2.Canonical F x) → (∀ x ∈ F1, Fp2.Canonical F x) →
    (∀ i, i < F0.length → Fp2.InversePair F (root (F0.length + i)) (iroot (F0.length + i))) →
    splitNtt F.inv2 (fp2Ops F) iroot (mergeNtt (fp2Ops F) root F0 F1) = (F0, F1))

/-! ## Frames -/

/-- What no command changes and which commands change the rest (`10_state.md` R33, R37; `40_system.md` R69): no command
writes CTRL, MODQ, NINV, LIFTW, A or B; only SETMOD writes the configuration; RES0 is written by Fp and Fp2 commands only,
RES1 by Fp2 commands only; the memories by transforms only. That `CMDLATCH` keeps its word is the model's choice (log
entry 1). -/
def Obligations.CommandsWriteOnlyTheirRegisters : Prop :=
  ∀ (i : Instr) (s t : State), exec i s = .next t →
    t.ieDone = s.ieDone ∧ t.ieErr = s.ieErr ∧ t.modq = s.modq ∧ t.ninv = s.ninv ∧ t.liftW0 = s.liftW0 ∧
    t.liftW1 = s.liftW1 ∧ t.a0 = s.a0 ∧ t.a1 = s.a1 ∧ t.b0 = s.b0 ∧ t.b1 = s.b1 ∧ t.cmdLatch = s.cmdLatch ∧
    t.resets = s.resets ∧ t.agenda = s.agenda ∧ t.response = s.response ∧ t.cfgTable = s.cfgTable ∧ t.busy = false ∧
    (i ≠ .setmod → t.q = s.q ∧ t.maxLog = s.maxLog ∧ t.cfgValid = s.cfgValid ∧ t.lift = s.lift ∧ t.mers = s.mers) ∧
    (i.isFp = false → i.isFp2 = false → t.res0 = s.res0) ∧ (i.isFp2 = false → t.res1 = s.res1) ∧
    (i.transformLogn = none → t.mem = s.mem)

/-- `43_root_table.md` R100: "No command writes `ROOT0`, `ROOT1`, `IROOT0`, `IROOT1`, `NINV`, `LIFTW0` or `LIFTW1`"; the host
may rewrite them between commands and cannot during a command. -/
def Obligations.NoCommandWritesATable : Prop :=
  (∀ (i : Instr) (s t : State), s.Inv → exec i s = .next t →
    t.ninv = s.ninv ∧ t.liftW0 = s.liftW0 ∧ t.liftW1 = s.liftW1 ∧
    ∀ (M : MemId) (j : Nat), M ≠ .buf0 → M ≠ .buf1 → j < Config.nmax → t.memWord M j = s.memWord M j) ∧
  (∀ (s : State) (M : MemId) (j : Nat) (d : Word), M ≠ .buf0 → M ≠ .buf1 → j < Config.nmax →
    s.hostWrite (BitVec.ofNat 16 (M.wordAddr j)) d = (if s.busy = true then none else some (s.setMemWord M j d, .ok))) ∧
  (∀ (s : State) (d : Word),
    s.hostWrite 0x0024#16 d = (if s.busy = true then none else some ({ s with ninv := d }, .ok)) ∧
    s.hostWrite 0x0028#16 d = (if s.busy = true then none else some ({ s with liftW0 := d }, .ok)) ∧
    s.hostWrite 0x002C#16 d = (if s.busy = true then none else some ({ s with liftW1 := d }, .ok)))

/-- "Every value a command *writes* is canonical for the `Q` of that command" (`10_state.md` R41): results and buffer words
of a command that completes. -/
def Obligations.CommandsWriteCanonicalValues : Prop :=
  ∀ (i : Instr) (s t : State), s.Inv → s.done = false → exec i s = .next t → t.done = true →
    ((i.isFp = true ∨ i.isFp2 = true) → t.res0.toNat < t.q.toNat) ∧
    (i.isFp2 = true → t.res1.toNat < t.q.toNat) ∧
    (∀ k, i.transformLogn = some k → s.lift = false → t.wordsBelowQ .buf0 0 (2 ^ k)) ∧
    (∀ k, i.transformLogn = some k → s.lift = true →
      t.wordsBelowQ .buf0 0 (2 ^ (k - 1)) ∧ t.wordsBelowQ .buf1 0 (2 ^ (k - 1)) ∧
      (i = .intti k ∨ i = .inttr k → t.wordsBelowQ .buf0 0 (2 ^ k)))

/-- The registers the host writes (`10_state.md` R21, access RW) do not reach a command that does not read them
(`60_exceptions.md` R131): `A1` and `B1` any command but an Fp2 one, A and B any system or transform command, B a unary
command (R33), `NINV` any command but INTTI and INTTIL (R31), the lift root any command but a transform in the lifted
configuration (R32), `MODQ` any command but SETMOD (R28), CTRL any command (R23). -/
def Obligations.CommandsIgnoreTheHostWrittenRegistersTheyDoNotRead : Prop :=
  (∀ (i : Instr) (s : State) (x y : Word), i.isFp2 = false →
    exec i { s with a1 := x, b1 := y } = mapNext (fun t => { t with a1 := x, b1 := y }) (exec i s)) ∧
  (∀ (i : Instr) (s : State) (x0 x1 y0 y1 : Word), i.isFp = false → i.isFp2 = false →
    exec i { s with a0 := x0, a1 := x1, b0 := y0, b1 := y1 } =
      mapNext (fun t => { t with a0 := x0, a1 := x1, b0 := y0, b1 := y1 }) (exec i s)) ∧
  (∀ (i : Instr) (s : State) (x y : Word), (i = .finv ∨ i = .fsqrt ∨ i = .f2inv ∨ i = .f2sqrt ∨ i = .f2neg) →
    exec i { s with b0 := x, b1 := y } = mapNext (fun t => { t with b0 := x, b1 := y }) (exec i s)) ∧
  (∀ (i : Instr) (s : State) (x : Word), (∀ k, i ≠ .intti k ∧ i ≠ .inttil k) →
    exec i { s with ninv := x } = mapNext (fun t => { t with ninv := x }) (exec i s)) ∧
  (∀ (i : Instr) (s : State) (x y : Word), (i.transformLogn = none ∨ s.lift = false) →
    exec i { s with liftW0 := x, liftW1 := y } = mapNext (fun t => { t with liftW0 := x, liftW1 := y }) (exec i s)) ∧
  (∀ (i : Instr) (s : State) (x : Word), i ≠ .setmod →
    exec i { s with modq := x } = mapNext (fun t => { t with modq := x }) (exec i s)) ∧
  (∀ (i : Instr) (s : State) (x y : Bool),
    exec i { s with ieDone := x, ieErr := y } = mapNext (fun t => { t with ieDone := x, ieErr := y }) (exec i s))

/-- A memory word outside its input set does not reach a command (`60_exceptions.md` R131): "table entry 0, table entries at
L and above, buffer words outside the input form, `BUF1` and `ROOT1`/`IROOT1` in the direct configuration", and every word
for a command that is no transform (`20_memory.md` R58: "No command is a load or a store"). Whatever the word holds, the
command ends alike but for that word. -/
def Obligations.CommandsIgnoreTheWordsTheyDoNotRead : Prop :=
  ∀ (i : Instr) (M : MemId) (j : Nat) (s t : State) (w : Word), s.Inv → j < Config.nmax → ¬s.readsWord i M j →
    exec i s = .next t →
    ∃ t', exec i (s.setMemWord M j w) = .next t' ∧ t' = { t with mem := t'.mem } ∧
      ∀ (M' : MemId) (j' : Nat), j' < Config.nmax → (M' ≠ M ∨ j' ≠ j) → t'.memWord M' j' = t.memWord M' j'
end

