-- ==== Sys2Proof/Laws/Decode.lean ====
section
/-! SUPPORT. The fields of the encoder's words. -/

namespace Sys2Proof

theorem opcField_encode (i : Instr) : opcField (encode i) = i.opcode := by
  unfold opcField encode
  ext k hk
  simp only [BitVec.getElem_extractLsb', BitVec.getLsbD_append]
  rw [if_pos (by omega), if_pos (by omega), ← BitVec.getLsbD_eq_getElem]
  simp

theorem rsvField_encode (i : Instr) : rsvField (encode i) = 0#20 := by
  unfold rsvField encode
  ext k hk
  simp only [BitVec.getElem_extractLsb', BitVec.getLsbD_append]
  rw [if_neg (by omega)]
  simp

theorem lognField_encode (i : Instr) : lognField (encode i) = i.lognValue % 16 := by
  have h : (encode i).extractLsb' 8 4 = BitVec.ofNat 4 i.lognValue := by
    unfold encode
    ext k hk
    simp only [BitVec.getElem_extractLsb', BitVec.getLsbD_append]
    rw [if_pos (by omega), if_neg (by omega), ← BitVec.getLsbD_eq_getElem]
    congr 1; omega
  simp [lognField, h]

end Sys2Proof
end

