-- ==== Sys2Proof/Laws/Fields.lean ====
section
/-! SUPPORT. The scalar functions of the two fields on canonical arguments: their residues and their ranges. -/

namespace Sys2Proof.Machine

variable {F : Modulus} {a b : Nat}

/-! ## Prime field -/

theorem fadd_eq (ha : a < F.q) (hb : b < F.q) : fadd F a b = (a + b) % F.q := by
  unfold fadd
  simp only
  split
  · rw [Nat.mod_eq_sub_mod ‹_›, Nat.mod_eq_of_lt (by omega)]
  · rw [Nat.mod_eq_of_lt (by omega)]

theorem fsub_eq (ha : a < F.q) (hb : b < F.q) : fsub F a b = (a + (F.q - b)) % F.q := by
  unfold fsub
  split
  · rw [Nat.mod_eq_of_lt (by omega)]; omega
  · rw [Nat.mod_eq_sub_mod (by omega), Nat.mod_eq_of_lt (by omega)]; omega

theorem fneg_eq (ha : a < F.q) : fneg F a = (F.q - a) % F.q := by
  rw [fneg, fsub_eq (by omega) ha, Nat.zero_add]

/-- The half-splitting datapath gives the residue (`41_fp.md` R75). -/
theorem mersenne_fold {p : Nat} (hp : p ≤ 2147483646 * 2147483646) :
    (if 2147483647 ≤ (p &&& (2 ^ 31 - 1)) + p >>> 31 then (p &&& (2 ^ 31 - 1)) + p >>> 31 - 2147483647
      else (p &&& (2 ^ 31 - 1)) + p >>> 31) = p % 2147483647 := by
  rw [Nat.and_two_pow_sub_one_eq_mod, Nat.shiftRight_eq_div_pow]
  split <;> omega

theorem fmul_eq (hF : F.mers = decide (F.q = Config.mersQ)) (ha : a < F.q) (hb : b < F.q) :
    fmul F a b = a * b % F.q := by
  unfold fmul
  simp only [hF, Config.mersQ]
  split
  · have hq : F.q = 2147483647 := of_decide_eq_true ‹_›
    rw [hq] at ha hb ⊢
    exact mersenne_fold (Nat.mul_le_mul (by omega) (by omega))
  · rfl

theorem fadd_lt (ha : a < F.q) (hb : b < F.q) : fadd F a b < F.q := by
  rw [fadd_eq ha hb]; exact Nat.mod_lt _ (by omega)

theorem fsub_lt (ha : a < F.q) (hb : b < F.q) : fsub F a b < F.q := by
  rw [fsub_eq ha hb]; exact Nat.mod_lt _ (by omega)

theorem fneg_lt (ha : a < F.q) : fneg F a < F.q := by
  rw [fneg_eq ha]; exact Nat.mod_lt _ (by omega)

theorem fmul_lt (hF : F.mers = decide (F.q = Config.mersQ)) (ha : a < F.q) (hb : b < F.q) : fmul F a b < F.q := by
  rw [fmul_eq hF ha hb]; exact Nat.mod_lt _ (by omega)

/-! ### In the ring of residues -/

theorem fadd_cast (ha : a < F.q) (hb : b < F.q) : (fadd F a b : ZMod F.q) = a + b := by
  rw [fadd_eq ha hb]; simp

theorem fsub_cast (ha : a < F.q) (hb : b < F.q) : (fsub F a b : ZMod F.q) = a - b := by
  rw [fsub_eq ha hb, ZMod.natCast_mod, Nat.cast_add, Nat.cast_sub hb.le, ZMod.natCast_self]; ring

theorem fneg_cast (ha : a < F.q) : (fneg F a : ZMod F.q) = -a := by
  rw [fneg, fsub_cast (by omega) ha]; simp

theorem fmul_cast (hF : F.mers = decide (F.q = Config.mersQ)) (ha : a < F.q) (hb : b < F.q) :
    (fmul F a b : ZMod F.q) = a * b := by
  rw [fmul_eq hF ha hb]; simp

/-- Canonical values are equal when their residues are. -/
theorem eq_of_cast_eq (ha : a < F.q) (hb : b < F.q) (h : (a : ZMod F.q) = b) : a = b := by
  rw [ZMod.natCast_eq_natCast_iff] at h
  exact Nat.ModEq.eq_of_lt_of_lt h ha hb

/-! ## Extension field -/

/-- Both components of a pair are canonical. -/
abbrev Fp2.Canon (F : Modulus) (x : Fp2) : Prop := x.1 < F.q ∧ x.2 < F.q

variable {x y : Fp2}

theorem f2add_canon (hx : Fp2.Canon F x) (hy : Fp2.Canon F y) : Fp2.Canon F (f2add F x y) :=
  ⟨fadd_lt hx.1 hy.1, fadd_lt hx.2 hy.2⟩

theorem f2sub_canon (hx : Fp2.Canon F x) (hy : Fp2.Canon F y) : Fp2.Canon F (f2sub F x y) :=
  ⟨fsub_lt hx.1 hy.1, fsub_lt hx.2 hy.2⟩

theorem f2neg_canon (hx : Fp2.Canon F x) : Fp2.Canon F (f2neg F x) := ⟨fneg_lt hx.1, fneg_lt hx.2⟩

theorem f2mul_canon (hF : F.mers = decide (F.q = Config.mersQ)) (hx : Fp2.Canon F x) (hy : Fp2.Canon F y) :
    Fp2.Canon F (f2mul F x y) :=
  ⟨fsub_lt (fmul_lt hF hx.1 hy.1) (fmul_lt hF hx.2 hy.2), fadd_lt (fmul_lt hF hx.1 hy.2) (fmul_lt hF hx.2 hy.1)⟩

end Sys2Proof.Machine
end

