-- ==== Sys2Proof/Laws/State.lean ====
section
/-! SUPPORT. The state record: for each named update and each field, what the field holds after the update. -/

namespace Sys2Proof.Machine

/-! ### `State.accept` -/

@[simp] theorem State.accept_ieDone (s : State) (w : Word) : (s.accept w).ieDone = s.ieDone := rfl
@[simp] theorem State.accept_ieErr (s : State) (w : Word) : (s.accept w).ieErr = s.ieErr := rfl
@[simp] theorem State.accept_busy (s : State) (w : Word) : (s.accept w).busy = true := rfl
@[simp] theorem State.accept_done (s : State) (w : Word) : (s.accept w).done = false := rfl
@[simp] theorem State.accept_err (s : State) (w : Word) : (s.accept w).err = s.err := rfl
@[simp] theorem State.accept_cfgValid (s : State) (w : Word) : (s.accept w).cfgValid = s.cfgValid := rfl
@[simp] theorem State.accept_lift (s : State) (w : Word) : (s.accept w).lift = s.lift := rfl
@[simp] theorem State.accept_mers (s : State) (w : Word) : (s.accept w).mers = s.mers := rfl
@[simp] theorem State.accept_errCode (s : State) (w : Word) : (s.accept w).errCode = s.errCode := rfl
@[simp] theorem State.accept_errInfo (s : State) (w : Word) : (s.accept w).errInfo = s.errInfo := rfl
@[simp] theorem State.accept_modq (s : State) (w : Word) : (s.accept w).modq = s.modq := rfl
@[simp] theorem State.accept_q (s : State) (w : Word) : (s.accept w).q = s.q := rfl
@[simp] theorem State.accept_maxLog (s : State) (w : Word) : (s.accept w).maxLog = s.maxLog := rfl
@[simp] theorem State.accept_ninv (s : State) (w : Word) : (s.accept w).ninv = s.ninv := rfl
@[simp] theorem State.accept_liftW0 (s : State) (w : Word) : (s.accept w).liftW0 = s.liftW0 := rfl
@[simp] theorem State.accept_liftW1 (s : State) (w : Word) : (s.accept w).liftW1 = s.liftW1 := rfl
@[simp] theorem State.accept_a0 (s : State) (w : Word) : (s.accept w).a0 = s.a0 := rfl
@[simp] theorem State.accept_a1 (s : State) (w : Word) : (s.accept w).a1 = s.a1 := rfl
@[simp] theorem State.accept_b0 (s : State) (w : Word) : (s.accept w).b0 = s.b0 := rfl
@[simp] theorem State.accept_b1 (s : State) (w : Word) : (s.accept w).b1 = s.b1 := rfl
@[simp] theorem State.accept_res0 (s : State) (w : Word) : (s.accept w).res0 = s.res0 := rfl
@[simp] theorem State.accept_res1 (s : State) (w : Word) : (s.accept w).res1 = s.res1 := rfl
@[simp] theorem State.accept_cmdLatch (s : State) (w : Word) : (s.accept w).cmdLatch = w := rfl
@[simp] theorem State.accept_mem (s : State) (w : Word) : (s.accept w).mem = s.mem := rfl
@[simp] theorem State.accept_resets (s : State) (w : Word) : (s.accept w).resets = s.resets := rfl
@[simp] theorem State.accept_agenda (s : State) (w : Word) : (s.accept w).agenda = s.agenda := rfl
@[simp] theorem State.accept_response (s : State) (w : Word) : (s.accept w).response = s.response := rfl
@[simp] theorem State.accept_cfgTable (s : State) (w : Word) : (s.accept w).cfgTable = s.cfgTable := rfl

/-! ### `State.enterError` -/

@[simp] theorem State.enterError_ieDone (s : State) (e : CmdError) : (s.enterError e).ieDone = s.ieDone := rfl
@[simp] theorem State.enterError_ieErr (s : State) (e : CmdError) : (s.enterError e).ieErr = s.ieErr := rfl
@[simp] theorem State.enterError_busy (s : State) (e : CmdError) : (s.enterError e).busy = false := rfl
@[simp] theorem State.enterError_done (s : State) (e : CmdError) : (s.enterError e).done = s.done := rfl
@[simp] theorem State.enterError_err (s : State) (e : CmdError) : (s.enterError e).err = true := rfl
@[simp] theorem State.enterError_cfgValid (s : State) (e : CmdError) : (s.enterError e).cfgValid = s.cfgValid := rfl
@[simp] theorem State.enterError_lift (s : State) (e : CmdError) : (s.enterError e).lift = s.lift := rfl
@[simp] theorem State.enterError_mers (s : State) (e : CmdError) : (s.enterError e).mers = s.mers := rfl
@[simp] theorem State.enterError_errCode (s : State) (e : CmdError) : (s.enterError e).errCode = e.code := rfl
@[simp] theorem State.enterError_errInfo (s : State) (e : CmdError) : (s.enterError e).errInfo = s.cmdLatch := rfl
@[simp] theorem State.enterError_modq (s : State) (e : CmdError) : (s.enterError e).modq = s.modq := rfl
@[simp] theorem State.enterError_q (s : State) (e : CmdError) : (s.enterError e).q = s.q := rfl
@[simp] theorem State.enterError_maxLog (s : State) (e : CmdError) : (s.enterError e).maxLog = s.maxLog := rfl
@[simp] theorem State.enterError_ninv (s : State) (e : CmdError) : (s.enterError e).ninv = s.ninv := rfl
@[simp] theorem State.enterError_liftW0 (s : State) (e : CmdError) : (s.enterError e).liftW0 = s.liftW0 := rfl
@[simp] theorem State.enterError_liftW1 (s : State) (e : CmdError) : (s.enterError e).liftW1 = s.liftW1 := rfl
@[simp] theorem State.enterError_a0 (s : State) (e : CmdError) : (s.enterError e).a0 = s.a0 := rfl
@[simp] theorem State.enterError_a1 (s : State) (e : CmdError) : (s.enterError e).a1 = s.a1 := rfl
@[simp] theorem State.enterError_b0 (s : State) (e : CmdError) : (s.enterError e).b0 = s.b0 := rfl
@[simp] theorem State.enterError_b1 (s : State) (e : CmdError) : (s.enterError e).b1 = s.b1 := rfl
@[simp] theorem State.enterError_res0 (s : State) (e : CmdError) : (s.enterError e).res0 = s.res0 := rfl
@[simp] theorem State.enterError_res1 (s : State) (e : CmdError) : (s.enterError e).res1 = s.res1 := rfl
@[simp] theorem State.enterError_cmdLatch (s : State) (e : CmdError) : (s.enterError e).cmdLatch = s.cmdLatch := rfl
@[simp] theorem State.enterError_mem (s : State) (e : CmdError) : (s.enterError e).mem = s.mem := rfl
@[simp] theorem State.enterError_resets (s : State) (e : CmdError) : (s.enterError e).resets = s.resets := rfl
@[simp] theorem State.enterError_agenda (s : State) (e : CmdError) : (s.enterError e).agenda = s.agenda := rfl
@[simp] theorem State.enterError_response (s : State) (e : CmdError) : (s.enterError e).response = s.response := rfl
@[simp] theorem State.enterError_cfgTable (s : State) (e : CmdError) : (s.enterError e).cfgTable = s.cfgTable := rfl

/-! ### `State.leaveError` -/

@[simp] theorem State.leaveError_ieDone (s : State) : (s.leaveError).ieDone = s.ieDone := rfl
@[simp] theorem State.leaveError_ieErr (s : State) : (s.leaveError).ieErr = s.ieErr := rfl
@[simp] theorem State.leaveError_busy (s : State) : (s.leaveError).busy = s.busy := rfl
@[simp] theorem State.leaveError_done (s : State) : (s.leaveError).done = s.done := rfl
@[simp] theorem State.leaveError_err (s : State) : (s.leaveError).err = false := rfl
@[simp] theorem State.leaveError_cfgValid (s : State) : (s.leaveError).cfgValid = s.cfgValid := rfl
@[simp] theorem State.leaveError_lift (s : State) : (s.leaveError).lift = s.lift := rfl
@[simp] theorem State.leaveError_mers (s : State) : (s.leaveError).mers = s.mers := rfl
@[simp] theorem State.leaveError_errCode (s : State) : (s.leaveError).errCode = 0#4 := rfl
@[simp] theorem State.leaveError_errInfo (s : State) : (s.leaveError).errInfo = 0#32 := rfl
@[simp] theorem State.leaveError_modq (s : State) : (s.leaveError).modq = s.modq := rfl
@[simp] theorem State.leaveError_q (s : State) : (s.leaveError).q = s.q := rfl
@[simp] theorem State.leaveError_maxLog (s : State) : (s.leaveError).maxLog = s.maxLog := rfl
@[simp] theorem State.leaveError_ninv (s : State) : (s.leaveError).ninv = s.ninv := rfl
@[simp] theorem State.leaveError_liftW0 (s : State) : (s.leaveError).liftW0 = s.liftW0 := rfl
@[simp] theorem State.leaveError_liftW1 (s : State) : (s.leaveError).liftW1 = s.liftW1 := rfl
@[simp] theorem State.leaveError_a0 (s : State) : (s.leaveError).a0 = s.a0 := rfl
@[simp] theorem State.leaveError_a1 (s : State) : (s.leaveError).a1 = s.a1 := rfl
@[simp] theorem State.leaveError_b0 (s : State) : (s.leaveError).b0 = s.b0 := rfl
@[simp] theorem State.leaveError_b1 (s : State) : (s.leaveError).b1 = s.b1 := rfl
@[simp] theorem State.leaveError_res0 (s : State) : (s.leaveError).res0 = s.res0 := rfl
@[simp] theorem State.leaveError_res1 (s : State) : (s.leaveError).res1 = s.res1 := rfl
@[simp] theorem State.leaveError_cmdLatch (s : State) : (s.leaveError).cmdLatch = s.cmdLatch := rfl
@[simp] theorem State.leaveError_mem (s : State) : (s.leaveError).mem = s.mem := rfl
@[simp] theorem State.leaveError_resets (s : State) : (s.leaveError).resets = s.resets := rfl
@[simp] theorem State.leaveError_agenda (s : State) : (s.leaveError).agenda = s.agenda := rfl
@[simp] theorem State.leaveError_response (s : State) : (s.leaveError).response = s.response := rfl
@[simp] theorem State.leaveError_cfgTable (s : State) : (s.leaveError).cfgTable = s.cfgTable := rfl

/-! ### `State.complete` -/

@[simp] theorem State.complete_ieDone (s : State) : (s.complete).ieDone = s.ieDone := rfl
@[simp] theorem State.complete_ieErr (s : State) : (s.complete).ieErr = s.ieErr := rfl
@[simp] theorem State.complete_busy (s : State) : (s.complete).busy = false := rfl
@[simp] theorem State.complete_done (s : State) : (s.complete).done = true := rfl
@[simp] theorem State.complete_err (s : State) : (s.complete).err = s.err := rfl
@[simp] theorem State.complete_cfgValid (s : State) : (s.complete).cfgValid = s.cfgValid := rfl
@[simp] theorem State.complete_lift (s : State) : (s.complete).lift = s.lift := rfl
@[simp] theorem State.complete_mers (s : State) : (s.complete).mers = s.mers := rfl
@[simp] theorem State.complete_errCode (s : State) : (s.complete).errCode = s.errCode := rfl
@[simp] theorem State.complete_errInfo (s : State) : (s.complete).errInfo = s.errInfo := rfl
@[simp] theorem State.complete_modq (s : State) : (s.complete).modq = s.modq := rfl
@[simp] theorem State.complete_q (s : State) : (s.complete).q = s.q := rfl
@[simp] theorem State.complete_maxLog (s : State) : (s.complete).maxLog = s.maxLog := rfl
@[simp] theorem State.complete_ninv (s : State) : (s.complete).ninv = s.ninv := rfl
@[simp] theorem State.complete_liftW0 (s : State) : (s.complete).liftW0 = s.liftW0 := rfl
@[simp] theorem State.complete_liftW1 (s : State) : (s.complete).liftW1 = s.liftW1 := rfl
@[simp] theorem State.complete_a0 (s : State) : (s.complete).a0 = s.a0 := rfl
@[simp] theorem State.complete_a1 (s : State) : (s.complete).a1 = s.a1 := rfl
@[simp] theorem State.complete_b0 (s : State) : (s.complete).b0 = s.b0 := rfl
@[simp] theorem State.complete_b1 (s : State) : (s.complete).b1 = s.b1 := rfl
@[simp] theorem State.complete_res0 (s : State) : (s.complete).res0 = s.res0 := rfl
@[simp] theorem State.complete_res1 (s : State) : (s.complete).res1 = s.res1 := rfl
@[simp] theorem State.complete_cmdLatch (s : State) : (s.complete).cmdLatch = s.cmdLatch := rfl
@[simp] theorem State.complete_mem (s : State) : (s.complete).mem = s.mem := rfl
@[simp] theorem State.complete_resets (s : State) : (s.complete).resets = s.resets := rfl
@[simp] theorem State.complete_agenda (s : State) : (s.complete).agenda = s.agenda := rfl
@[simp] theorem State.complete_response (s : State) : (s.complete).response = s.response := rfl
@[simp] theorem State.complete_cfgTable (s : State) : (s.complete).cfgTable = s.cfgTable := rfl

/-! ### `State.setMemWord` -/

@[simp] theorem State.setMemWord_ieDone (s : State) (M : MemId) (i : Nat) (w : Word) : (s.setMemWord M i w).ieDone = s.ieDone := rfl
@[simp] theorem State.setMemWord_ieErr (s : State) (M : MemId) (i : Nat) (w : Word) : (s.setMemWord M i w).ieErr = s.ieErr := rfl
@[simp] theorem State.setMemWord_busy (s : State) (M : MemId) (i : Nat) (w : Word) : (s.setMemWord M i w).busy = s.busy := rfl
@[simp] theorem State.setMemWord_done (s : State) (M : MemId) (i : Nat) (w : Word) : (s.setMemWord M i w).done = s.done := rfl
@[simp] theorem State.setMemWord_err (s : State) (M : MemId) (i : Nat) (w : Word) : (s.setMemWord M i w).err = s.err := rfl
@[simp] theorem State.setMemWord_cfgValid (s : State) (M : MemId) (i : Nat) (w : Word) : (s.setMemWord M i w).cfgValid = s.cfgValid := rfl
@[simp] theorem State.setMemWord_lift (s : State) (M : MemId) (i : Nat) (w : Word) : (s.setMemWord M i w).lift = s.lift := rfl
@[simp] theorem State.setMemWord_mers (s : State) (M : MemId) (i : Nat) (w : Word) : (s.setMemWord M i w).mers = s.mers := rfl
@[simp] theorem State.setMemWord_errCode (s : State) (M : MemId) (i : Nat) (w : Word) : (s.setMemWord M i w).errCode = s.errCode := rfl
@[simp] theorem State.setMemWord_errInfo (s : State) (M : MemId) (i : Nat) (w : Word) : (s.setMemWord M i w).errInfo = s.errInfo := rfl
@[simp] theorem State.setMemWord_modq (s : State) (M : MemId) (i : Nat) (w : Word) : (s.setMemWord M i w).modq = s.modq := rfl
@[simp] theorem State.setMemWord_q (s : State) (M : MemId) (i : Nat) (w : Word) : (s.setMemWord M i w).q = s.q := rfl
@[simp] theorem State.setMemWord_maxLog (s : State) (M : MemId) (i : Nat) (w : Word) : (s.setMemWord M i w).maxLog = s.maxLog := rfl
@[simp] theorem State.setMemWord_ninv (s : State) (M : MemId) (i : Nat) (w : Word) : (s.setMemWord M i w).ninv = s.ninv := rfl
@[simp] theorem State.setMemWord_liftW0 (s : State) (M : MemId) (i : Nat) (w : Word) : (s.setMemWord M i w).liftW0 = s.liftW0 := rfl
@[simp] theorem State.setMemWord_liftW1 (s : State) (M : MemId) (i : Nat) (w : Word) : (s.setMemWord M i w).liftW1 = s.liftW1 := rfl
@[simp] theorem State.setMemWord_a0 (s : State) (M : MemId) (i : Nat) (w : Word) : (s.setMemWord M i w).a0 = s.a0 := rfl
@[simp] theorem State.setMemWord_a1 (s : State) (M : MemId) (i : Nat) (w : Word) : (s.setMemWord M i w).a1 = s.a1 := rfl
@[simp] theorem State.setMemWord_b0 (s : State) (M : MemId) (i : Nat) (w : Word) : (s.setMemWord M i w).b0 = s.b0 := rfl
@[simp] theorem State.setMemWord_b1 (s : State) (M : MemId) (i : Nat) (w : Word) : (s.setMemWord M i w).b1 = s.b1 := rfl
@[simp] theorem State.setMemWord_res0 (s : State) (M : MemId) (i : Nat) (w : Word) : (s.setMemWord M i w).res0 = s.res0 := rfl
@[simp] theorem State.setMemWord_res1 (s : State) (M : MemId) (i : Nat) (w : Word) : (s.setMemWord M i w).res1 = s.res1 := rfl
@[simp] theorem State.setMemWord_cmdLatch (s : State) (M : MemId) (i : Nat) (w : Word) : (s.setMemWord M i w).cmdLatch = s.cmdLatch := rfl
@[simp] theorem State.setMemWord_mem (s : State) (M : MemId) (i : Nat) (w : Word) : (s.setMemWord M i w).mem = memStoreWord s.mem (M.wordAddr i) w := rfl
@[simp] theorem State.setMemWord_resets (s : State) (M : MemId) (i : Nat) (w : Word) : (s.setMemWord M i w).resets = s.resets := rfl
@[simp] theorem State.setMemWord_agenda (s : State) (M : MemId) (i : Nat) (w : Word) : (s.setMemWord M i w).agenda = s.agenda := rfl
@[simp] theorem State.setMemWord_response (s : State) (M : MemId) (i : Nat) (w : Word) : (s.setMemWord M i w).response = s.response := rfl
@[simp] theorem State.setMemWord_cfgTable (s : State) (M : MemId) (i : Nat) (w : Word) : (s.setMemWord M i w).cfgTable = s.cfgTable := rfl

/-! ### `State.setMemSeq` -/

@[simp] theorem State.setMemSeq_ieDone (s : State) (M : MemId) (vs : List Nat) : (s.setMemSeq M vs).ieDone = s.ieDone := rfl
@[simp] theorem State.setMemSeq_ieErr (s : State) (M : MemId) (vs : List Nat) : (s.setMemSeq M vs).ieErr = s.ieErr := rfl
@[simp] theorem State.setMemSeq_busy (s : State) (M : MemId) (vs : List Nat) : (s.setMemSeq M vs).busy = s.busy := rfl
@[simp] theorem State.setMemSeq_done (s : State) (M : MemId) (vs : List Nat) : (s.setMemSeq M vs).done = s.done := rfl
@[simp] theorem State.setMemSeq_err (s : State) (M : MemId) (vs : List Nat) : (s.setMemSeq M vs).err = s.err := rfl
@[simp] theorem State.setMemSeq_cfgValid (s : State) (M : MemId) (vs : List Nat) : (s.setMemSeq M vs).cfgValid = s.cfgValid := rfl
@[simp] theorem State.setMemSeq_lift (s : State) (M : MemId) (vs : List Nat) : (s.setMemSeq M vs).lift = s.lift := rfl
@[simp] theorem State.setMemSeq_mers (s : State) (M : MemId) (vs : List Nat) : (s.setMemSeq M vs).mers = s.mers := rfl
@[simp] theorem State.setMemSeq_errCode (s : State) (M : MemId) (vs : List Nat) : (s.setMemSeq M vs).errCode = s.errCode := rfl
@[simp] theorem State.setMemSeq_errInfo (s : State) (M : MemId) (vs : List Nat) : (s.setMemSeq M vs).errInfo = s.errInfo := rfl
@[simp] theorem State.setMemSeq_modq (s : State) (M : MemId) (vs : List Nat) : (s.setMemSeq M vs).modq = s.modq := rfl
@[simp] theorem State.setMemSeq_q (s : State) (M : MemId) (vs : List Nat) : (s.setMemSeq M vs).q = s.q := rfl
@[simp] theorem State.setMemSeq_maxLog (s : State) (M : MemId) (vs : List Nat) : (s.setMemSeq M vs).maxLog = s.maxLog := rfl
@[simp] theorem State.setMemSeq_ninv (s : State) (M : MemId) (vs : List Nat) : (s.setMemSeq M vs).ninv = s.ninv := rfl
@[simp] theorem State.setMemSeq_liftW0 (s : State) (M : MemId) (vs : List Nat) : (s.setMemSeq M vs).liftW0 = s.liftW0 := rfl
@[simp] theorem State.setMemSeq_liftW1 (s : State) (M : MemId) (vs : List Nat) : (s.setMemSeq M vs).liftW1 = s.liftW1 := rfl
@[simp] theorem State.setMemSeq_a0 (s : State) (M : MemId) (vs : List Nat) : (s.setMemSeq M vs).a0 = s.a0 := rfl
@[simp] theorem State.setMemSeq_a1 (s : State) (M : MemId) (vs : List Nat) : (s.setMemSeq M vs).a1 = s.a1 := rfl
@[simp] theorem State.setMemSeq_b0 (s : State) (M : MemId) (vs : List Nat) : (s.setMemSeq M vs).b0 = s.b0 := rfl
@[simp] theorem State.setMemSeq_b1 (s : State) (M : MemId) (vs : List Nat) : (s.setMemSeq M vs).b1 = s.b1 := rfl
@[simp] theorem State.setMemSeq_res0 (s : State) (M : MemId) (vs : List Nat) : (s.setMemSeq M vs).res0 = s.res0 := rfl
@[simp] theorem State.setMemSeq_res1 (s : State) (M : MemId) (vs : List Nat) : (s.setMemSeq M vs).res1 = s.res1 := rfl
@[simp] theorem State.setMemSeq_cmdLatch (s : State) (M : MemId) (vs : List Nat) : (s.setMemSeq M vs).cmdLatch = s.cmdLatch := rfl
@[simp] theorem State.setMemSeq_mem (s : State) (M : MemId) (vs : List Nat) : (s.setMemSeq M vs).mem = memStoreSeq s.mem M.base vs := rfl
@[simp] theorem State.setMemSeq_resets (s : State) (M : MemId) (vs : List Nat) : (s.setMemSeq M vs).resets = s.resets := rfl
@[simp] theorem State.setMemSeq_agenda (s : State) (M : MemId) (vs : List Nat) : (s.setMemSeq M vs).agenda = s.agenda := rfl
@[simp] theorem State.setMemSeq_response (s : State) (M : MemId) (vs : List Nat) : (s.setMemSeq M vs).response = s.response := rfl
@[simp] theorem State.setMemSeq_cfgTable (s : State) (M : MemId) (vs : List Nat) : (s.setMemSeq M vs).cfgTable = s.cfgTable := rfl

/-! ### `State.setBufFp2` -/

@[simp] theorem State.setBufFp2_ieDone (s : State) (b : List Fp2) : (s.setBufFp2 b).ieDone = s.ieDone := rfl
@[simp] theorem State.setBufFp2_ieErr (s : State) (b : List Fp2) : (s.setBufFp2 b).ieErr = s.ieErr := rfl
@[simp] theorem State.setBufFp2_busy (s : State) (b : List Fp2) : (s.setBufFp2 b).busy = s.busy := rfl
@[simp] theorem State.setBufFp2_done (s : State) (b : List Fp2) : (s.setBufFp2 b).done = s.done := rfl
@[simp] theorem State.setBufFp2_err (s : State) (b : List Fp2) : (s.setBufFp2 b).err = s.err := rfl
@[simp] theorem State.setBufFp2_cfgValid (s : State) (b : List Fp2) : (s.setBufFp2 b).cfgValid = s.cfgValid := rfl
@[simp] theorem State.setBufFp2_lift (s : State) (b : List Fp2) : (s.setBufFp2 b).lift = s.lift := rfl
@[simp] theorem State.setBufFp2_mers (s : State) (b : List Fp2) : (s.setBufFp2 b).mers = s.mers := rfl
@[simp] theorem State.setBufFp2_errCode (s : State) (b : List Fp2) : (s.setBufFp2 b).errCode = s.errCode := rfl
@[simp] theorem State.setBufFp2_errInfo (s : State) (b : List Fp2) : (s.setBufFp2 b).errInfo = s.errInfo := rfl
@[simp] theorem State.setBufFp2_modq (s : State) (b : List Fp2) : (s.setBufFp2 b).modq = s.modq := rfl
@[simp] theorem State.setBufFp2_q (s : State) (b : List Fp2) : (s.setBufFp2 b).q = s.q := rfl
@[simp] theorem State.setBufFp2_maxLog (s : State) (b : List Fp2) : (s.setBufFp2 b).maxLog = s.maxLog := rfl
@[simp] theorem State.setBufFp2_ninv (s : State) (b : List Fp2) : (s.setBufFp2 b).ninv = s.ninv := rfl
@[simp] theorem State.setBufFp2_liftW0 (s : State) (b : List Fp2) : (s.setBufFp2 b).liftW0 = s.liftW0 := rfl
@[simp] theorem State.setBufFp2_liftW1 (s : State) (b : List Fp2) : (s.setBufFp2 b).liftW1 = s.liftW1 := rfl
@[simp] theorem State.setBufFp2_a0 (s : State) (b : List Fp2) : (s.setBufFp2 b).a0 = s.a0 := rfl
@[simp] theorem State.setBufFp2_a1 (s : State) (b : List Fp2) : (s.setBufFp2 b).a1 = s.a1 := rfl
@[simp] theorem State.setBufFp2_b0 (s : State) (b : List Fp2) : (s.setBufFp2 b).b0 = s.b0 := rfl
@[simp] theorem State.setBufFp2_b1 (s : State) (b : List Fp2) : (s.setBufFp2 b).b1 = s.b1 := rfl
@[simp] theorem State.setBufFp2_res0 (s : State) (b : List Fp2) : (s.setBufFp2 b).res0 = s.res0 := rfl
@[simp] theorem State.setBufFp2_res1 (s : State) (b : List Fp2) : (s.setBufFp2 b).res1 = s.res1 := rfl
@[simp] theorem State.setBufFp2_cmdLatch (s : State) (b : List Fp2) : (s.setBufFp2 b).cmdLatch = s.cmdLatch := rfl
@[simp] theorem State.setBufFp2_mem (s : State) (b : List Fp2) : (s.setBufFp2 b).mem = memStoreSeq (memStoreSeq s.mem MemId.buf0.base (b.map fun x => x.1)) MemId.buf1.base (b.map fun x => x.2) := rfl
@[simp] theorem State.setBufFp2_resets (s : State) (b : List Fp2) : (s.setBufFp2 b).resets = s.resets := rfl
@[simp] theorem State.setBufFp2_agenda (s : State) (b : List Fp2) : (s.setBufFp2 b).agenda = s.agenda := rfl
@[simp] theorem State.setBufFp2_response (s : State) (b : List Fp2) : (s.setBufFp2 b).response = s.response := rfl
@[simp] theorem State.setBufFp2_cfgTable (s : State) (b : List Fp2) : (s.setBufFp2 b).cfgTable = s.cfgTable := rfl

/-! ### `State.setRes` -/

@[simp] theorem State.setRes_ieDone (s : State) (r : Nat) : (s.setRes r).ieDone = s.ieDone := rfl
@[simp] theorem State.setRes_ieErr (s : State) (r : Nat) : (s.setRes r).ieErr = s.ieErr := rfl
@[simp] theorem State.setRes_busy (s : State) (r : Nat) : (s.setRes r).busy = s.busy := rfl
@[simp] theorem State.setRes_done (s : State) (r : Nat) : (s.setRes r).done = s.done := rfl
@[simp] theorem State.setRes_err (s : State) (r : Nat) : (s.setRes r).err = s.err := rfl
@[simp] theorem State.setRes_cfgValid (s : State) (r : Nat) : (s.setRes r).cfgValid = s.cfgValid := rfl
@[simp] theorem State.setRes_lift (s : State) (r : Nat) : (s.setRes r).lift = s.lift := rfl
@[simp] theorem State.setRes_mers (s : State) (r : Nat) : (s.setRes r).mers = s.mers := rfl
@[simp] theorem State.setRes_errCode (s : State) (r : Nat) : (s.setRes r).errCode = s.errCode := rfl
@[simp] theorem State.setRes_errInfo (s : State) (r : Nat) : (s.setRes r).errInfo = s.errInfo := rfl
@[simp] theorem State.setRes_modq (s : State) (r : Nat) : (s.setRes r).modq = s.modq := rfl
@[simp] theorem State.setRes_q (s : State) (r : Nat) : (s.setRes r).q = s.q := rfl
@[simp] theorem State.setRes_maxLog (s : State) (r : Nat) : (s.setRes r).maxLog = s.maxLog := rfl
@[simp] theorem State.setRes_ninv (s : State) (r : Nat) : (s.setRes r).ninv = s.ninv := rfl
@[simp] theorem State.setRes_liftW0 (s : State) (r : Nat) : (s.setRes r).liftW0 = s.liftW0 := rfl
@[simp] theorem State.setRes_liftW1 (s : State) (r : Nat) : (s.setRes r).liftW1 = s.liftW1 := rfl
@[simp] theorem State.setRes_a0 (s : State) (r : Nat) : (s.setRes r).a0 = s.a0 := rfl
@[simp] theorem State.setRes_a1 (s : State) (r : Nat) : (s.setRes r).a1 = s.a1 := rfl
@[simp] theorem State.setRes_b0 (s : State) (r : Nat) : (s.setRes r).b0 = s.b0 := rfl
@[simp] theorem State.setRes_b1 (s : State) (r : Nat) : (s.setRes r).b1 = s.b1 := rfl
@[simp] theorem State.setRes_res0 (s : State) (r : Nat) : (s.setRes r).res0 = BitVec.ofNat 32 r := rfl
@[simp] theorem State.setRes_res1 (s : State) (r : Nat) : (s.setRes r).res1 = s.res1 := rfl
@[simp] theorem State.setRes_cmdLatch (s : State) (r : Nat) : (s.setRes r).cmdLatch = s.cmdLatch := rfl
@[simp] theorem State.setRes_mem (s : State) (r : Nat) : (s.setRes r).mem = s.mem := rfl
@[simp] theorem State.setRes_resets (s : State) (r : Nat) : (s.setRes r).resets = s.resets := rfl
@[simp] theorem State.setRes_agenda (s : State) (r : Nat) : (s.setRes r).agenda = s.agenda := rfl
@[simp] theorem State.setRes_response (s : State) (r : Nat) : (s.setRes r).response = s.response := rfl
@[simp] theorem State.setRes_cfgTable (s : State) (r : Nat) : (s.setRes r).cfgTable = s.cfgTable := rfl

/-! ### `State.setResPair` -/

@[simp] theorem State.setResPair_ieDone (s : State) (r : Fp2) : (s.setResPair r).ieDone = s.ieDone := rfl
@[simp] theorem State.setResPair_ieErr (s : State) (r : Fp2) : (s.setResPair r).ieErr = s.ieErr := rfl
@[simp] theorem State.setResPair_busy (s : State) (r : Fp2) : (s.setResPair r).busy = s.busy := rfl
@[simp] theorem State.setResPair_done (s : State) (r : Fp2) : (s.setResPair r).done = s.done := rfl
@[simp] theorem State.setResPair_err (s : State) (r : Fp2) : (s.setResPair r).err = s.err := rfl
@[simp] theorem State.setResPair_cfgValid (s : State) (r : Fp2) : (s.setResPair r).cfgValid = s.cfgValid := rfl
@[simp] theorem State.setResPair_lift (s : State) (r : Fp2) : (s.setResPair r).lift = s.lift := rfl
@[simp] theorem State.setResPair_mers (s : State) (r : Fp2) : (s.setResPair r).mers = s.mers := rfl
@[simp] theorem State.setResPair_errCode (s : State) (r : Fp2) : (s.setResPair r).errCode = s.errCode := rfl
@[simp] theorem State.setResPair_errInfo (s : State) (r : Fp2) : (s.setResPair r).errInfo = s.errInfo := rfl
@[simp] theorem State.setResPair_modq (s : State) (r : Fp2) : (s.setResPair r).modq = s.modq := rfl
@[simp] theorem State.setResPair_q (s : State) (r : Fp2) : (s.setResPair r).q = s.q := rfl
@[simp] theorem State.setResPair_maxLog (s : State) (r : Fp2) : (s.setResPair r).maxLog = s.maxLog := rfl
@[simp] theorem State.setResPair_ninv (s : State) (r : Fp2) : (s.setResPair r).ninv = s.ninv := rfl
@[simp] theorem State.setResPair_liftW0 (s : State) (r : Fp2) : (s.setResPair r).liftW0 = s.liftW0 := rfl
@[simp] theorem State.setResPair_liftW1 (s : State) (r : Fp2) : (s.setResPair r).liftW1 = s.liftW1 := rfl
@[simp] theorem State.setResPair_a0 (s : State) (r : Fp2) : (s.setResPair r).a0 = s.a0 := rfl
@[simp] theorem State.setResPair_a1 (s : State) (r : Fp2) : (s.setResPair r).a1 = s.a1 := rfl
@[simp] theorem State.setResPair_b0 (s : State) (r : Fp2) : (s.setResPair r).b0 = s.b0 := rfl
@[simp] theorem State.setResPair_b1 (s : State) (r : Fp2) : (s.setResPair r).b1 = s.b1 := rfl
@[simp] theorem State.setResPair_res0 (s : State) (r : Fp2) : (s.setResPair r).res0 = BitVec.ofNat 32 r.1 := rfl
@[simp] theorem State.setResPair_res1 (s : State) (r : Fp2) : (s.setResPair r).res1 = BitVec.ofNat 32 r.2 := rfl
@[simp] theorem State.setResPair_cmdLatch (s : State) (r : Fp2) : (s.setResPair r).cmdLatch = s.cmdLatch := rfl
@[simp] theorem State.setResPair_mem (s : State) (r : Fp2) : (s.setResPair r).mem = s.mem := rfl
@[simp] theorem State.setResPair_resets (s : State) (r : Fp2) : (s.setResPair r).resets = s.resets := rfl
@[simp] theorem State.setResPair_agenda (s : State) (r : Fp2) : (s.setResPair r).agenda = s.agenda := rfl
@[simp] theorem State.setResPair_response (s : State) (r : Fp2) : (s.setResPair r).response = s.response := rfl
@[simp] theorem State.setResPair_cfgTable (s : State) (r : Fp2) : (s.setResPair r).cfgTable = s.cfgTable := rfl

/-! ### `State.writeCtrl` -/

@[simp] theorem State.writeCtrl_ieDone (s : State) (d : Word) : (s.writeCtrl d).ieDone = d.getLsbD 0 := rfl
@[simp] theorem State.writeCtrl_ieErr (s : State) (d : Word) : (s.writeCtrl d).ieErr = d.getLsbD 1 := rfl
@[simp] theorem State.writeCtrl_busy (s : State) (d : Word) : (s.writeCtrl d).busy = s.busy := rfl
@[simp] theorem State.writeCtrl_done (s : State) (d : Word) : (s.writeCtrl d).done = s.done := rfl
@[simp] theorem State.writeCtrl_err (s : State) (d : Word) : (s.writeCtrl d).err = s.err := rfl
@[simp] theorem State.writeCtrl_cfgValid (s : State) (d : Word) : (s.writeCtrl d).cfgValid = s.cfgValid := rfl
@[simp] theorem State.writeCtrl_lift (s : State) (d : Word) : (s.writeCtrl d).lift = s.lift := rfl
@[simp] theorem State.writeCtrl_mers (s : State) (d : Word) : (s.writeCtrl d).mers = s.mers := rfl
@[simp] theorem State.writeCtrl_errCode (s : State) (d : Word) : (s.writeCtrl d).errCode = s.errCode := rfl
@[simp] theorem State.writeCtrl_errInfo (s : State) (d : Word) : (s.writeCtrl d).errInfo = s.errInfo := rfl
@[simp] theorem State.writeCtrl_modq (s : State) (d : Word) : (s.writeCtrl d).modq = s.modq := rfl
@[simp] theorem State.writeCtrl_q (s : State) (d : Word) : (s.writeCtrl d).q = s.q := rfl
@[simp] theorem State.writeCtrl_maxLog (s : State) (d : Word) : (s.writeCtrl d).maxLog = s.maxLog := rfl
@[simp] theorem State.writeCtrl_ninv (s : State) (d : Word) : (s.writeCtrl d).ninv = s.ninv := rfl
@[simp] theorem State.writeCtrl_liftW0 (s : State) (d : Word) : (s.writeCtrl d).liftW0 = s.liftW0 := rfl
@[simp] theorem State.writeCtrl_liftW1 (s : State) (d : Word) : (s.writeCtrl d).liftW1 = s.liftW1 := rfl
@[simp] theorem State.writeCtrl_a0 (s : State) (d : Word) : (s.writeCtrl d).a0 = s.a0 := rfl
@[simp] theorem State.writeCtrl_a1 (s : State) (d : Word) : (s.writeCtrl d).a1 = s.a1 := rfl
@[simp] theorem State.writeCtrl_b0 (s : State) (d : Word) : (s.writeCtrl d).b0 = s.b0 := rfl
@[simp] theorem State.writeCtrl_b1 (s : State) (d : Word) : (s.writeCtrl d).b1 = s.b1 := rfl
@[simp] theorem State.writeCtrl_res0 (s : State) (d : Word) : (s.writeCtrl d).res0 = s.res0 := rfl
@[simp] theorem State.writeCtrl_res1 (s : State) (d : Word) : (s.writeCtrl d).res1 = s.res1 := rfl
@[simp] theorem State.writeCtrl_cmdLatch (s : State) (d : Word) : (s.writeCtrl d).cmdLatch = s.cmdLatch := rfl
@[simp] theorem State.writeCtrl_mem (s : State) (d : Word) : (s.writeCtrl d).mem = s.mem := rfl
@[simp] theorem State.writeCtrl_resets (s : State) (d : Word) : (s.writeCtrl d).resets = s.resets := rfl
@[simp] theorem State.writeCtrl_agenda (s : State) (d : Word) : (s.writeCtrl d).agenda = s.agenda := rfl
@[simp] theorem State.writeCtrl_response (s : State) (d : Word) : (s.writeCtrl d).response = s.response := rfl
@[simp] theorem State.writeCtrl_cfgTable (s : State) (d : Word) : (s.writeCtrl d).cfgTable = s.cfgTable := rfl

/-! ### `State.writeStatus` -/

@[simp] theorem State.writeStatus_ieDone (s : State) (d : Word) : (s.writeStatus d).ieDone = s.ieDone := rfl
@[simp] theorem State.writeStatus_ieErr (s : State) (d : Word) : (s.writeStatus d).ieErr = s.ieErr := rfl
@[simp] theorem State.writeStatus_busy (s : State) (d : Word) : (s.writeStatus d).busy = s.busy := rfl
@[simp] theorem State.writeStatus_done (s : State) (d : Word) : (s.writeStatus d).done = (s.done && !d.getLsbD 1) := rfl
@[simp] theorem State.writeStatus_err (s : State) (d : Word) : (s.writeStatus d).err = s.err := rfl
@[simp] theorem State.writeStatus_cfgValid (s : State) (d : Word) : (s.writeStatus d).cfgValid = s.cfgValid := rfl
@[simp] theorem State.writeStatus_lift (s : State) (d : Word) : (s.writeStatus d).lift = s.lift := rfl
@[simp] theorem State.writeStatus_mers (s : State) (d : Word) : (s.writeStatus d).mers = s.mers := rfl
@[simp] theorem State.writeStatus_errCode (s : State) (d : Word) : (s.writeStatus d).errCode = s.errCode := rfl
@[simp] theorem State.writeStatus_errInfo (s : State) (d : Word) : (s.writeStatus d).errInfo = s.errInfo := rfl
@[simp] theorem State.writeStatus_modq (s : State) (d : Word) : (s.writeStatus d).modq = s.modq := rfl
@[simp] theorem State.writeStatus_q (s : State) (d : Word) : (s.writeStatus d).q = s.q := rfl
@[simp] theorem State.writeStatus_maxLog (s : State) (d : Word) : (s.writeStatus d).maxLog = s.maxLog := rfl
@[simp] theorem State.writeStatus_ninv (s : State) (d : Word) : (s.writeStatus d).ninv = s.ninv := rfl
@[simp] theorem State.writeStatus_liftW0 (s : State) (d : Word) : (s.writeStatus d).liftW0 = s.liftW0 := rfl
@[simp] theorem State.writeStatus_liftW1 (s : State) (d : Word) : (s.writeStatus d).liftW1 = s.liftW1 := rfl
@[simp] theorem State.writeStatus_a0 (s : State) (d : Word) : (s.writeStatus d).a0 = s.a0 := rfl
@[simp] theorem State.writeStatus_a1 (s : State) (d : Word) : (s.writeStatus d).a1 = s.a1 := rfl
@[simp] theorem State.writeStatus_b0 (s : State) (d : Word) : (s.writeStatus d).b0 = s.b0 := rfl
@[simp] theorem State.writeStatus_b1 (s : State) (d : Word) : (s.writeStatus d).b1 = s.b1 := rfl
@[simp] theorem State.writeStatus_res0 (s : State) (d : Word) : (s.writeStatus d).res0 = s.res0 := rfl
@[simp] theorem State.writeStatus_res1 (s : State) (d : Word) : (s.writeStatus d).res1 = s.res1 := rfl
@[simp] theorem State.writeStatus_cmdLatch (s : State) (d : Word) : (s.writeStatus d).cmdLatch = s.cmdLatch := rfl
@[simp] theorem State.writeStatus_mem (s : State) (d : Word) : (s.writeStatus d).mem = s.mem := rfl
@[simp] theorem State.writeStatus_resets (s : State) (d : Word) : (s.writeStatus d).resets = s.resets := rfl
@[simp] theorem State.writeStatus_agenda (s : State) (d : Word) : (s.writeStatus d).agenda = s.agenda := rfl
@[simp] theorem State.writeStatus_response (s : State) (d : Word) : (s.writeStatus d).response = s.response := rfl
@[simp] theorem State.writeStatus_cfgTable (s : State) (d : Word) : (s.writeStatus d).cfgTable = s.cfgTable := rfl

/-! ### `State.setConfig` -/

@[simp] theorem State.setConfig_ieDone (s : State) (e : Config.ModEntry) (lf mf : Bool) : (s.setConfig e lf mf).ieDone = s.ieDone := rfl
@[simp] theorem State.setConfig_ieErr (s : State) (e : Config.ModEntry) (lf mf : Bool) : (s.setConfig e lf mf).ieErr = s.ieErr := rfl
@[simp] theorem State.setConfig_busy (s : State) (e : Config.ModEntry) (lf mf : Bool) : (s.setConfig e lf mf).busy = s.busy := rfl
@[simp] theorem State.setConfig_done (s : State) (e : Config.ModEntry) (lf mf : Bool) : (s.setConfig e lf mf).done = s.done := rfl
@[simp] theorem State.setConfig_err (s : State) (e : Config.ModEntry) (lf mf : Bool) : (s.setConfig e lf mf).err = s.err := rfl
@[simp] theorem State.setConfig_cfgValid (s : State) (e : Config.ModEntry) (lf mf : Bool) : (s.setConfig e lf mf).cfgValid = true := rfl
@[simp] theorem State.setConfig_lift (s : State) (e : Config.ModEntry) (lf mf : Bool) : (s.setConfig e lf mf).lift = lf := rfl
@[simp] theorem State.setConfig_mers (s : State) (e : Config.ModEntry) (lf mf : Bool) : (s.setConfig e lf mf).mers = mf := rfl
@[simp] theorem State.setConfig_errCode (s : State) (e : Config.ModEntry) (lf mf : Bool) : (s.setConfig e lf mf).errCode = s.errCode := rfl
@[simp] theorem State.setConfig_errInfo (s : State) (e : Config.ModEntry) (lf mf : Bool) : (s.setConfig e lf mf).errInfo = s.errInfo := rfl
@[simp] theorem State.setConfig_modq (s : State) (e : Config.ModEntry) (lf mf : Bool) : (s.setConfig e lf mf).modq = s.modq := rfl
@[simp] theorem State.setConfig_q (s : State) (e : Config.ModEntry) (lf mf : Bool) : (s.setConfig e lf mf).q = BitVec.ofNat 32 e.q := rfl
@[simp] theorem State.setConfig_maxLog (s : State) (e : Config.ModEntry) (lf mf : Bool) : (s.setConfig e lf mf).maxLog = BitVec.ofNat 4 e.maxLog := rfl
@[simp] theorem State.setConfig_ninv (s : State) (e : Config.ModEntry) (lf mf : Bool) : (s.setConfig e lf mf).ninv = s.ninv := rfl
@[simp] theorem State.setConfig_liftW0 (s : State) (e : Config.ModEntry) (lf mf : Bool) : (s.setConfig e lf mf).liftW0 = s.liftW0 := rfl
@[simp] theorem State.setConfig_liftW1 (s : State) (e : Config.ModEntry) (lf mf : Bool) : (s.setConfig e lf mf).liftW1 = s.liftW1 := rfl
@[simp] theorem State.setConfig_a0 (s : State) (e : Config.ModEntry) (lf mf : Bool) : (s.setConfig e lf mf).a0 = s.a0 := rfl
@[simp] theorem State.setConfig_a1 (s : State) (e : Config.ModEntry) (lf mf : Bool) : (s.setConfig e lf mf).a1 = s.a1 := rfl
@[simp] theorem State.setConfig_b0 (s : State) (e : Config.ModEntry) (lf mf : Bool) : (s.setConfig e lf mf).b0 = s.b0 := rfl
@[simp] theorem State.setConfig_b1 (s : State) (e : Config.ModEntry) (lf mf : Bool) : (s.setConfig e lf mf).b1 = s.b1 := rfl
@[simp] theorem State.setConfig_res0 (s : State) (e : Config.ModEntry) (lf mf : Bool) : (s.setConfig e lf mf).res0 = s.res0 := rfl
@[simp] theorem State.setConfig_res1 (s : State) (e : Config.ModEntry) (lf mf : Bool) : (s.setConfig e lf mf).res1 = s.res1 := rfl
@[simp] theorem State.setConfig_cmdLatch (s : State) (e : Config.ModEntry) (lf mf : Bool) : (s.setConfig e lf mf).cmdLatch = s.cmdLatch := rfl
@[simp] theorem State.setConfig_mem (s : State) (e : Config.ModEntry) (lf mf : Bool) : (s.setConfig e lf mf).mem = s.mem := rfl
@[simp] theorem State.setConfig_resets (s : State) (e : Config.ModEntry) (lf mf : Bool) : (s.setConfig e lf mf).resets = s.resets := rfl
@[simp] theorem State.setConfig_agenda (s : State) (e : Config.ModEntry) (lf mf : Bool) : (s.setConfig e lf mf).agenda = s.agenda := rfl
@[simp] theorem State.setConfig_response (s : State) (e : Config.ModEntry) (lf mf : Bool) : (s.setConfig e lf mf).response = s.response := rfl
@[simp] theorem State.setConfig_cfgTable (s : State) (e : Config.ModEntry) (lf mf : Bool) : (s.setConfig e lf mf).cfgTable = s.cfgTable := rfl

/-! ### `State.resetEvent` -/

@[simp] theorem State.resetEvent_ieDone (s : State) : s.resetEvent.ieDone = State.reset.ieDone := rfl
@[simp] theorem State.resetEvent_ieErr (s : State) : s.resetEvent.ieErr = State.reset.ieErr := rfl
@[simp] theorem State.resetEvent_busy (s : State) : s.resetEvent.busy = State.reset.busy := rfl
@[simp] theorem State.resetEvent_done (s : State) : s.resetEvent.done = State.reset.done := rfl
@[simp] theorem State.resetEvent_err (s : State) : s.resetEvent.err = State.reset.err := rfl
@[simp] theorem State.resetEvent_cfgValid (s : State) : s.resetEvent.cfgValid = State.reset.cfgValid := rfl
@[simp] theorem State.resetEvent_lift (s : State) : s.resetEvent.lift = State.reset.lift := rfl
@[simp] theorem State.resetEvent_mers (s : State) : s.resetEvent.mers = State.reset.mers := rfl
@[simp] theorem State.resetEvent_errCode (s : State) : s.resetEvent.errCode = State.reset.errCode := rfl
@[simp] theorem State.resetEvent_errInfo (s : State) : s.resetEvent.errInfo = State.reset.errInfo := rfl
@[simp] theorem State.resetEvent_modq (s : State) : s.resetEvent.modq = State.reset.modq := rfl
@[simp] theorem State.resetEvent_q (s : State) : s.resetEvent.q = State.reset.q := rfl
@[simp] theorem State.resetEvent_maxLog (s : State) : s.resetEvent.maxLog = State.reset.maxLog := rfl
@[simp] theorem State.resetEvent_ninv (s : State) : s.resetEvent.ninv = State.reset.ninv := rfl
@[simp] theorem State.resetEvent_liftW0 (s : State) : s.resetEvent.liftW0 = State.reset.liftW0 := rfl
@[simp] theorem State.resetEvent_liftW1 (s : State) : s.resetEvent.liftW1 = State.reset.liftW1 := rfl
@[simp] theorem State.resetEvent_a0 (s : State) : s.resetEvent.a0 = State.reset.a0 := rfl
@[simp] theorem State.resetEvent_a1 (s : State) : s.resetEvent.a1 = State.reset.a1 := rfl
@[simp] theorem State.resetEvent_b0 (s : State) : s.resetEvent.b0 = State.reset.b0 := rfl
@[simp] theorem State.resetEvent_b1 (s : State) : s.resetEvent.b1 = State.reset.b1 := rfl
@[simp] theorem State.resetEvent_res0 (s : State) : s.resetEvent.res0 = State.reset.res0 := rfl
@[simp] theorem State.resetEvent_res1 (s : State) : s.resetEvent.res1 = State.reset.res1 := rfl
@[simp] theorem State.resetEvent_cmdLatch (s : State) : s.resetEvent.cmdLatch = State.reset.cmdLatch := rfl
@[simp] theorem State.resetEvent_mem (s : State) : s.resetEvent.mem = State.reset.mem := rfl
@[simp] theorem State.resetEvent_resets (s : State) : s.resetEvent.resets = s.resets + 1 := rfl
@[simp] theorem State.resetEvent_agenda (s : State) : s.resetEvent.agenda = s.agenda := rfl
@[simp] theorem State.resetEvent_response (s : State) : s.resetEvent.response = s.response := rfl
@[simp] theorem State.resetEvent_cfgTable (s : State) : s.resetEvent.cfgTable = s.cfgTable := rfl

end Sys2Proof.Machine
end

