-- ==== Sys2Proof/Laws/Memory.lean ====
section
/-! SUPPORT. The laws of the memories: reading a byte or a word after a write, and the canonical form. -/

namespace Sys2Proof.Machine

/-! ## Bytes -/

theorem memLookup_store (m : Memory) (a c : Nat) (b : Byte) :
    memLookup (memStore m a b) c = if c = a then some b else memLookup m c := by
  induction m with
  | nil => simp [memStore, memLookup]
  | cons p m ih =>
    obtain ⟨a', b'⟩ := p
    simp only [memStore]
    split
    · simp [memLookup]
    · split
      · subst a'; simp only [memLookup]; split <;> rfl
      · simp only [memLookup, ih]
        split
        · rename_i h1 h2 h3; subst h3; rw [if_neg (fun h => h2 h.symm)]
        · rfl

theorem memLookup_store_same (m : Memory) (a : Nat) (b : Byte) : memLookup (memStore m a b) a = some b := by
  simp [memLookup_store]

theorem memLookup_store_other (m : Memory) {a c : Nat} (b : Byte) (h : c ≠ a) :
    memLookup (memStore m a b) c = memLookup m c := by
  simp [memLookup_store, h]

/-! ## The canonical form -/

theorem memWfFrom_mono {lo lo' : Nat} {m : Memory} (h : lo' ≤ lo) (hm : memWfFrom lo m = true) :
    memWfFrom lo' m = true := by
  cases m with
  | nil => rfl
  | cons p m =>
    simp only [memWfFrom, Bool.and_eq_true, decide_eq_true_eq] at hm ⊢
    exact ⟨⟨by omega, hm.1.2⟩, hm.2⟩

theorem memWfFrom_store {lo : Nat} {m : Memory} {a : Nat} (b : Byte) (hlo : lo ≤ a) (ha : a < memEnd)
    (hm : memWfFrom lo m = true) : memWfFrom lo (memStore m a b) = true := by
  induction m generalizing lo with
  | nil => simp [memStore, memWfFrom, hlo, ha]
  | cons p m ih =>
    obtain ⟨a', b'⟩ := p
    simp only [memWfFrom, Bool.and_eq_true, decide_eq_true_eq] at hm
    simp only [memStore]
    split
    · simp only [memWfFrom, Bool.and_eq_true, decide_eq_true_eq]
      exact ⟨⟨hlo, ha⟩, ⟨by omega, hm.1.2⟩, hm.2⟩
    · split
      · subst a'
        simp only [memWfFrom, Bool.and_eq_true, decide_eq_true_eq]
        exact ⟨⟨hlo, ha⟩, hm.2⟩
      · simp only [memWfFrom, Bool.and_eq_true, decide_eq_true_eq]
        exact ⟨hm.1, ih (by omega) hm.2⟩

/-- Every byte write into the memories keeps the canonical form. -/
theorem Memory.wf_store {m : Memory} {a : Nat} (b : Byte) (hlo : memBase ≤ a) (ha : a < memEnd) (hm : m.wf = true) :
    (memStore m a b : Memory).wf = true := memWfFrom_store b hlo ha hm

/-- Every word write into the memories keeps the canonical form. -/
theorem Memory.wf_storeWord {m : Memory} {a : Nat} (w : Word) (hlo : memBase ≤ a) (ha : a + 4 ≤ memEnd)
    (hm : m.wf = true) : (memStoreWord m a w).wf = true := by
  unfold memStoreWord
  exact Memory.wf_store _ (by omega) (by omega) <| Memory.wf_store _ (by omega) (by omega) <|
    Memory.wf_store _ (by omega) (by omega) <| Memory.wf_store _ (by omega) (by omega) hm

/-- Every sequence of word writes into the memories keeps the canonical form. -/
theorem Memory.wf_storeSeq {m : Memory} {a : Nat} {vs : List Nat} (hlo : memBase ≤ a) (ha : a + 4 * vs.length ≤ memEnd)
    (hm : m.wf = true) : (memStoreSeq m a vs).wf = true := by
  induction vs generalizing m a with
  | nil => exact hm
  | cons v vs ih =>
    simp only [List.length_cons] at ha
    exact ih (by omega) (by omega) (Memory.wf_storeWord _ hlo (by omega) hm)

/-- With an address in the canonical form goes no second entry: two canonical memories that answer every lookup alike are
one list. -/
theorem Memory.wf_ext {lo : Nat} {m m' : Memory} (hm : memWfFrom lo m = true) (hm' : memWfFrom lo m' = true)
    (h : ∀ a, memLookup m a = memLookup m' a) : m = m' := by
  have low : ∀ {m : Memory} {lo a : Nat}, memWfFrom lo m = true → a < lo → memLookup m a = none := by
    intro m
    induction m with
    | nil => intros; rfl
    | cons p m ih =>
      intro lo a hw ha
      simp only [memWfFrom, Bool.and_eq_true, decide_eq_true_eq] at hw
      simp only [memLookup]
      rw [if_neg (by omega)]
      exact ih hw.2 (by omega)
  induction m generalizing lo m' with
  | nil =>
    cases m' with
    | nil => rfl
    | cons p m' => have := h p.1; simp [memLookup] at this
  | cons p m ih =>
    cases m' with
    | nil => have := h p.1; simp [memLookup] at this
    | cons p' m' =>
      obtain ⟨a, b⟩ := p
      obtain ⟨a', b'⟩ := p'
      simp only [memWfFrom, Bool.and_eq_true, decide_eq_true_eq] at hm hm'
      have e : a = a' := by
        rcases Nat.lt_trichotomy a a' with hl | he | hg
        · have := h a
          rw [low (lo := a') (m := (a', b') :: m') (by simp [memWfFrom, hm']) hl] at this
          simp [memLookup] at this
        · exact he
        · have := h a'
          rw [low (lo := a) (m := (a, b) :: m) (by simp [memWfFrom, hm]) hg] at this
          simp [memLookup] at this
      subst e
      have eb : b = b' := by have := h a; simpa [memLookup] using this
      subst eb
      congr 1
      refine ih hm.2 hm'.2 fun c => ?_
      by_cases hc : c = a
      · subst hc; rw [low hm.2 (by omega), low hm'.2 (by omega)]
      · have := h c; simpa [memLookup, hc] using this

/-! ## Words -/

theorem bytesToWord_wordByte (w : Word) :
    bytesToWord (wordByte w 0) (wordByte w 1) (wordByte w 2) (wordByte w 3) = w := by
  unfold bytesToWord wordByte
  ext i hi
  simp only [BitVec.getElem_append, BitVec.getElem_extractLsb']
  repeat' split
  all_goals (rw [← BitVec.getLsbD_eq_getElem]; congr 1; omega)

/-- Everything a word write does to the bytes. -/
theorem memLookup_storeWord (m : Memory) (a c : Nat) (w : Word) :
    memLookup (memStoreWord m a w) c =
      if a ≤ c ∧ c < a + 4 then some (wordByte w (c - a)) else memLookup m c := by
  unfold memStoreWord
  simp only [memLookup_store]
  by_cases h3 : c = a + 3
  · subst h3; simp
  by_cases h2 : c = a + 2
  · subst h2; simp
  by_cases h1 : c = a + 1
  · subst h1; simp
  by_cases h0 : c = a
  · subst h0; simp
  · rw [if_neg h3, if_neg h2, if_neg h1, if_neg h0, if_neg (by omega)]

/-- Everything a sequence of word writes does to the bytes outside it. -/
theorem memLookup_storeSeq_other (m : Memory) (a c : Nat) (vs : List Nat) (h : c < a ∨ a + 4 * vs.length ≤ c) :
    memLookup (memStoreSeq m a vs) c = memLookup m c := by
  induction vs generalizing m a with
  | nil => rfl
  | cons v vs ih =>
    simp only [List.length_cons] at h
    rw [memStoreSeq, ih _ _ (by omega), memLookup_storeWord, if_neg (by omega)]

/-- Everything a sequence of word writes does to the bytes inside it. -/
theorem memLookup_storeSeq_inside (m : Memory) (a i k : Nat) (vs : List Nat) (hi : i < vs.length) (hk : k < 4) :
    memLookup (memStoreSeq m a vs) (a + 4 * i + k) = some (wordByte (BitVec.ofNat 32 vs[i]) k) := by
  induction vs generalizing m a i with
  | nil => simp at hi
  | cons v vs ih =>
    cases i with
    | zero =>
      rw [memStoreSeq, memLookup_storeSeq_other _ _ _ _ (by omega), memLookup_storeWord, if_pos (by omega)]
      simp
    | succ i =>
      rw [memStoreSeq, show a + 4 * (i + 1) + k = a + 4 + 4 * i + k by omega,
        ih _ _ _ (by simpa using hi)]
      simp

/-- Two states that agree on four bytes and on the count of resets agree on the word. -/
theorem State.wordAt_congr {s t : State} {a : Nat} (hr : t.resets = s.resets)
    (h : ∀ k < 4, memLookup t.mem (a + k) = memLookup s.mem (a + k)) : t.wordAt a = s.wordAt a := by
  have h0 := h 0 (by omega)
  have h1 := h 1 (by omega)
  have h2 := h 2 (by omega)
  have h3 := h 3 (by omega)
  simp only [Nat.add_zero] at h0
  simp only [State.wordAt, State.byteAt, hr, h0, h1, h2, h3]

/-- The four bytes of a word written make the word read. -/
theorem State.wordAt_of_bytes {s : State} {a : Nat} {w : Word}
    (h : ∀ k < 4, memLookup s.mem (a + k) = some (wordByte w k)) : s.wordAt a = w := by
  have h0 := h 0 (by omega)
  have h1 := h 1 (by omega)
  have h2 := h 2 (by omega)
  have h3 := h 3 (by omega)
  simp only [Nat.add_zero] at h0
  simp only [State.wordAt, State.byteAt, h0, h1, h2, h3, Option.getD_some, bytesToWord_wordByte]

/-- Reading a word after writing it. -/
theorem State.memWord_setMemWord_same (s : State) (M : MemId) (i : Nat) (w : Word) :
    (s.setMemWord M i w).memWord M i = w := by
  refine State.wordAt_of_bytes fun k hk => ?_
  rw [State.setMemWord_mem, memLookup_storeWord, if_pos (by omega)]
  simp

/-- Writing a word leaves every word that shares no byte with it. -/
theorem State.wordAt_setMemWord_other (s : State) (M : MemId) (i a : Nat) (w : Word)
    (h : a + 4 ≤ M.wordAddr i ∨ M.wordAddr i + 4 ≤ a) : (s.setMemWord M i w).wordAt a = s.wordAt a := by
  refine State.wordAt_congr rfl fun k hk => ?_
  rw [State.setMemWord_mem, memLookup_storeWord, if_neg (by omega)]

/-- Reading a word after writing a sequence that holds it. -/
theorem State.memWord_setMemSeq_same (s : State) (M : MemId) (vs : List Nat) (i : Nat) (hi : i < vs.length) :
    (s.setMemSeq M vs).memWord M i = BitVec.ofNat 32 vs[i] :=
  State.wordAt_of_bytes fun _ hk => memLookup_storeSeq_inside _ _ _ _ _ hi hk

/-- Writing a sequence leaves every word that shares no byte with it. -/
theorem State.wordAt_setMemSeq_other (s : State) (M : MemId) (vs : List Nat) (a : Nat)
    (h : a + 4 ≤ M.base ∨ M.base + 4 * vs.length ≤ a) : (s.setMemSeq M vs).wordAt a = s.wordAt a := by
  refine State.wordAt_congr rfl fun k hk => ?_
  rw [State.setMemSeq_mem, memLookup_storeSeq_other _ _ _ _ (by omega)]

/-- Writing a sequence leaves every byte outside it. -/
theorem State.byteAt_setMemSeq_other (s : State) (M : MemId) (vs : List Nat) (a : Nat)
    (h : a < M.base ∨ M.base + 4 * vs.length ≤ a) : (s.setMemSeq M vs).byteAt a = s.byteAt a := by
  simp only [State.byteAt, State.setMemSeq_mem, State.setMemSeq_resets]
  rw [memLookup_storeSeq_other _ _ _ _ h]

end Sys2Proof.Machine
end

