-- ==== Sys2Proof/Laws/Ops.lean ====
section
/-! SUPPORT. What the shared operations can answer, said once: the completion step, the checks, and the operand forms. -/

namespace Sys2Proof.Machine

/-! ## The completion step -/

@[simp] theorem State.finish_ok (s t : State) : s.finish (.ok t) = .next t.complete := rfl

@[simp] theorem State.finish_error (s : State) (e : CmdError) : s.finish (.error e) = .next (s.enterError e) := rfl

/-- A command completes with its result or takes error entry; it does nothing else. -/
theorem State.finish_cases {s t : State} {r : Except CmdError State} (h : s.finish r = .next t) :
    (∃ t', r = .ok t' ∧ t = t'.complete) ∨ (∃ e, r = .error e ∧ t = s.enterError e) := by
  cases r with
  | ok t' => exact .inl ⟨t', rfl, by simpa using h.symm⟩
  | error e => exact .inr ⟨e, rfl, by simpa using h.symm⟩

/-- A completion step always answers a next state. -/
theorem State.finish_next (s : State) (r : Except CmdError State) : ∃ t, s.finish r = .next t := by
  cases r <;> exact ⟨_, rfl⟩

/-! ## Sequencing of checks -/

/-- A chain of checks succeeds when its first link does and the rest does. -/
theorem bind_eq_ok {α β : Type} {r : Except CmdError α} {f : α → Except CmdError β} {b : β} :
    (r >>= f) = .ok b ↔ ∃ a, r = .ok a ∧ f a = .ok b := by
  cases r <;> simp [bind, Except.bind]

/-- A chain of checks fails where its first link fails, or after it. -/
theorem bind_eq_error {α β : Type} {r : Except CmdError α} {f : α → Except CmdError β} {e : CmdError} :
    (r >>= f) = .error e ↔ r = .error e ∨ ∃ a, r = .ok a ∧ f a = .error e := by
  cases r <;> simp [bind, Except.bind]

/-! ## The checks -/

/-- Everything a check can answer. -/
theorem check_ok {c : Prop} [Decidable c] {e : CmdError} {u : Unit} :
    (if c then Except.ok () else Except.error e) = .ok u ↔ c := by
  split <;> simp_all

theorem check_error {c : Prop} [Decidable c] {e e' : CmdError} :
    (if c then Except.ok () else Except.error e : Except CmdError Unit) = .error e' ↔ ¬c ∧ e' = e := by
  split
  · simp_all
  · simpa [*] using eq_comm

theorem State.requireConfigured_ok {s : State} {u : Unit} : s.requireConfigured = .ok u ↔ s.cfgValid = true := check_ok

theorem State.requireConfigured_error {s : State} {e : CmdError} :
    s.requireConfigured = .error e ↔ ¬s.cfgValid = true ∧ e = .unsupportedModulus := check_error

theorem State.requireThreeModFour_ok {s : State} {u : Unit} : s.requireThreeModFour = .ok u ↔ s.q.toNat % 4 = 3 :=
  check_ok

theorem State.requireThreeModFour_error {s : State} {e : CmdError} :
    s.requireThreeModFour = .error e ↔ ¬s.q.toNat % 4 = 3 ∧ e = .unsupportedModulus := check_error

theorem State.requireLazyModulus_ok {s : State} {u : Unit} :
    s.requireLazyModulus = .ok u ↔ s.q.toNat = Config.lazyQ := check_ok

theorem State.requireLazyModulus_error {s : State} {e : CmdError} :
    s.requireLazyModulus = .error e ↔ ¬s.q.toNat = Config.lazyQ ∧ e = .unsupportedModulus := check_error

/-- The length check passes (`60_exceptions.md` R130). -/
abbrev State.LengthOk (s : State) (logn : Nat) : Prop := s.lognMin ≤ logn ∧ logn ≤ s.maxLog.toNat

theorem State.requireLength_ok {s : State} {logn : Nat} {u : Unit} : s.requireLength logn = .ok u ↔ s.LengthOk logn :=
  check_ok

theorem State.requireLength_error {s : State} {logn : Nat} {e : CmdError} :
    s.requireLength logn = .error e ↔ ¬s.LengthOk logn ∧ e = .invalidLength := check_error

theorem State.canonical_iff {s : State} {ws : List Word} :
    s.canonical ws = true ↔ ∀ w ∈ ws, w.toNat < s.q.toNat := by
  simp [State.canonical]

theorem State.requireCanonical_ok {s : State} {ws : List Word} {u : Unit} :
    s.requireCanonical ws = .ok u ↔ s.canonical ws = true := check_ok

theorem State.requireCanonical_error {s : State} {ws : List Word} {e : CmdError} :
    s.requireCanonical ws = .error e ↔ ¬s.canonical ws = true ∧ e = .nonCanonical := check_error

/-! ## The scalar forms -/

theorem State.fpBinary_ok {s t : State} {f : Modulus → Nat → Nat → Nat} :
    s.fpBinary f = .ok t ↔
      s.cfgValid = true ∧ s.canonical [s.a0, s.b0] = true ∧ t = s.setRes (f s.modulus s.opA s.opB) := by
  simp only [State.fpBinary, bind_eq_ok, State.requireConfigured_ok, State.requireCanonical_ok]
  constructor
  · rintro ⟨_, h1, _, h2, h3⟩; exact ⟨h1, h2, by simpa using h3.symm⟩
  · rintro ⟨h1, h2, rfl⟩; exact ⟨(), h1, (), h2, rfl⟩

theorem State.fpUnary_ok {s t : State} {g : State → Except CmdError Unit} {f : Modulus → Nat → Except CmdError Nat} :
    s.fpUnary g f = .ok t ↔
      s.cfgValid = true ∧ g s = .ok () ∧ s.canonical [s.a0] = true ∧
        ∃ r, f s.modulus s.opA = .ok r ∧ t = s.setRes r := by
  simp only [State.fpUnary, bind_eq_ok, State.requireConfigured_ok, State.requireCanonical_ok]
  constructor
  · rintro ⟨_, h1, _, hg, _, h2, r, h3, h4⟩; exact ⟨h1, hg, h2, r, h3, by simpa using h4.symm⟩
  · rintro ⟨h1, hg, h2, r, h3, rfl⟩; exact ⟨(), h1, (), hg, (), h2, r, h3, rfl⟩

theorem State.fp2Binary_ok {s t : State} {f : Modulus → Fp2 → Fp2 → Fp2} :
    s.fp2Binary f = .ok t ↔
      s.cfgValid = true ∧ s.q.toNat % 4 = 3 ∧ s.canonical [s.a0, s.a1, s.b0, s.b1] = true ∧
        t = s.setResPair (f s.modulus s.opX s.opY) := by
  simp only [State.fp2Binary, bind_eq_ok, State.requireConfigured_ok, State.requireThreeModFour_ok,
    State.requireCanonical_ok]
  constructor
  · rintro ⟨_, h1, _, hq, _, h2, h3⟩; exact ⟨h1, hq, h2, by simpa using h3.symm⟩
  · rintro ⟨h1, hq, h2, rfl⟩; exact ⟨(), h1, (), hq, (), h2, rfl⟩

theorem State.fp2Unary_ok {s t : State} {f : Modulus → Fp2 → Except CmdError Fp2} :
    s.fp2Unary f = .ok t ↔
      s.cfgValid = true ∧ s.q.toNat % 4 = 3 ∧ s.canonical [s.a0, s.a1] = true ∧
        ∃ r, f s.modulus s.opX = .ok r ∧ t = s.setResPair r := by
  simp only [State.fp2Unary, bind_eq_ok, State.requireConfigured_ok, State.requireThreeModFour_ok,
    State.requireCanonical_ok]
  constructor
  · rintro ⟨_, h1, _, hq, _, h2, r, h3, h4⟩; exact ⟨h1, hq, h2, r, h3, by simpa using h4.symm⟩
  · rintro ⟨h1, hq, h2, r, h3, rfl⟩; exact ⟨(), h1, (), hq, (), h2, r, h3, rfl⟩

/-! ## The vector forms -/

theorem State.forward_ok {s t : State} {logn : Nat}
    {net : {α : Type} → ElemOps α → (Nat → α) → Nat → List α → List α} :
    s.forward logn net = .ok t ↔
      s.cfgValid = true ∧ s.LengthOk logn ∧ s.canonical (s.forwardInputs logn) = true ∧ t = s.forwardResult logn net := by
  simp only [State.forward, bind_eq_ok, State.requireConfigured_ok, State.requireLength_ok, State.requireCanonical_ok]
  constructor
  · rintro ⟨_, h1, _, hl, _, h2, h3⟩; exact ⟨h1, hl, h2, by simpa using h3.symm⟩
  · rintro ⟨h1, hl, h2, rfl⟩; exact ⟨(), h1, (), hl, (), h2, rfl⟩

theorem State.inverse_ok {s t : State} {logn : Nat} {extra : List Word}
    {net : {α : Type} → ElemOps α → (Nat → α) → Nat → List α → List α} :
    s.inverse logn extra net = .ok t ↔
      s.cfgValid = true ∧ s.LengthOk logn ∧ s.canonical (s.inverseInputs logn ++ extra) = true ∧
        s.inverseResult logn net = .ok t := by
  simp only [State.inverse, bind_eq_ok, State.requireConfigured_ok, State.requireLength_ok, State.requireCanonical_ok]
  constructor
  · rintro ⟨_, h1, _, hl, _, h2, h3⟩; exact ⟨h1, hl, h2, h3⟩
  · rintro ⟨h1, hl, h2, h3⟩; exact ⟨(), h1, (), hl, (), h2, h3⟩

theorem State.lazyTransform_ok {s t : State} {logn : Nat} {inputs : List Word}
    {net : List Nat → Except CmdError (List Nat)} :
    s.lazyTransform logn inputs net = .ok t ↔
      s.cfgValid = true ∧ s.q.toNat = Config.lazyQ ∧ s.LengthOk logn ∧ s.canonical inputs = true ∧
        ∃ c, net (s.bufFp (2 ^ logn)) = .ok c ∧ t = s.setMemSeq .buf0 c := by
  simp only [State.lazyTransform, bind_eq_ok, State.requireConfigured_ok, State.requireLazyModulus_ok,
    State.requireLength_ok, State.requireCanonical_ok]
  constructor
  · rintro ⟨_, h1, _, hq, _, hl, _, h2, c, h3, h4⟩; exact ⟨h1, hq, hl, h2, c, h3, by simpa using h4.symm⟩
  · rintro ⟨h1, hq, hl, h2, c, h3, rfl⟩; exact ⟨(), h1, (), hq, (), hl, (), h2, c, h3, rfl⟩

/-! ## The engine's turn -/

/-- Every command is a completion step: it ends in its result or in error entry, from the state at acceptance. -/
theorem exec_eq_finish (i : Instr) (s : State) : ∃ r, exec i s = s.finish r := by
  cases i with
  | nop => exact ⟨.ok s, rfl⟩
  | clrerr => exact ⟨.ok s.leaveError, rfl⟩
  | _ => exact ⟨_, rfl⟩

/-- Everything the engine's turn can be: nothing when idle, IllegalCommand for a word that selects no command, the
meaning of the command otherwise. -/
theorem State.engineStep_cases (s : State) :
    (s.busy = false ∧ s.engineStep = .next s) ∨
    (s.busy = true ∧ ∃ d, decode s.cmdLatch = .error d ∧ s.engineStep = .next (s.enterError .illegalCommand)) ∨
    (s.busy = true ∧ ∃ i, decode s.cmdLatch = .ok i ∧ s.engineStep = exec i s) := by
  unfold State.engineStep State.runCommand State.fetchCommand
  cases hb : s.busy with
  | false => exact .inl ⟨rfl, rfl⟩
  | true =>
    cases hd : decode s.cmdLatch with
    | error d => exact .inr (.inl ⟨rfl, d, rfl, by simp⟩)
    | ok i => exact .inr (.inr ⟨rfl, i, rfl, by simp⟩)

end Sys2Proof.Machine
end

