-- ==== Sys2Proof/Laws/HostPort.lean ====
section
/-! SUPPORT. The address map and the host's transactions. -/

namespace Sys2Proof.Machine

theorem regMap_length : regMap.length = 18 := rfl

theorem memMap_length : memMap.length = 6 := rfl

/-- An address names nothing exactly in the reserved ranges (`20_memory.md` R45). -/
theorem locate_eq_none {addr : Addr} :
    locate addr = none ↔ (0x0048 ≤ addr.toNat ∧ addr.toNat < 0x2000) ∨ 0xE000 ≤ addr.toNat := by
  unfold locate memBase
  simp only
  split
  · simp only [Option.map_eq_none_iff, List.getElem?_eq_none_iff, regMap_length]; omega
  · simp only [Option.map_eq_none_iff, List.getElem?_eq_none_iff, memMap_length]; omega

/-- Below 0x2000 an address that names anything names the register at its offset. -/
theorem locate_reg {addr : Addr} (h : addr.toNat < 0x0048) :
    ∃ r, regMap[addr.toNat / 4]? = some r ∧ locate addr = some (.reg r) := by
  have hl : addr.toNat / 4 < regMap.length := by rw [regMap_length]; omega
  refine ⟨regMap[addr.toNat / 4], List.getElem?_eq_getElem hl, ?_⟩
  unfold locate memBase
  simp only
  rw [if_pos (by omega), List.getElem?_eq_getElem hl]; rfl

/-- From 0x2000 up an address that names anything names a word of a memory. -/
theorem locate_mem {addr : Addr} (h : 0x2000 ≤ addr.toNat) (h' : addr.toNat < 0xE000) :
    ∃ M i, i < Config.nmax ∧ locate addr = some (.word M i) := by
  have hl : (addr.toNat - 0x2000) / 0x2000 < memMap.length := by rw [memMap_length]; omega
  refine ⟨memMap[(addr.toNat - 0x2000) / 0x2000], addr.toNat % 0x2000 / 4, by unfold Config.nmax; omega, ?_⟩
  unfold locate memBase
  simp only
  rw [if_neg (by omega), List.getElem?_eq_getElem hl]; rfl

theorem MemId.wordAddr_lt (M : MemId) {i : Nat} (hi : i < Config.nmax) :
    0x2000 ≤ M.wordAddr i ∧ M.wordAddr i + 4 ≤ 0xE000 := by
  unfold Config.nmax at hi
  cases M <;> simp only [MemId.wordAddr, MemId.base] <;> omega

theorem MemId.wordAddr_toNat (M : MemId) {i : Nat} (hi : i < Config.nmax) :
    (BitVec.ofNat 16 (M.wordAddr i)).toNat = M.wordAddr i := by
  have := M.wordAddr_lt hi
  simp only [BitVec.toNat_ofNat]; omega

/-- Word `i` of a memory is located at base + 4·i. -/
theorem locate_wordAddr (M : MemId) {i : Nat} (hi : i < Config.nmax) :
    locate (BitVec.ofNat 16 (M.wordAddr i)) = some (.word M i) := by
  have hn := M.wordAddr_toNat hi
  have hlo := (M.wordAddr_lt hi).1
  unfold Config.nmax at hi
  have hi4 : M.wordAddr i % 0x2000 / 4 = i := by cases M <;> simp only [MemId.wordAddr, MemId.base] <;> omega
  have hM : memMap[(M.wordAddr i - 0x2000) / 0x2000]? = some M := by
    cases M <;> simp only [MemId.wordAddr, MemId.base] <;>
      [rw [show (0x2000 + 4 * i - 0x2000) / 0x2000 = 0 by omega]; rw [show (0x4000 + 4 * i - 0x2000) / 0x2000 = 1 by omega];
       rw [show (0x6000 + 4 * i - 0x2000) / 0x2000 = 2 by omega]; rw [show (0x8000 + 4 * i - 0x2000) / 0x2000 = 3 by omega];
       rw [show (0xA000 + 4 * i - 0x2000) / 0x2000 = 4 by omega]; rw [show (0xC000 + 4 * i - 0x2000) / 0x2000 = 5 by omega]] <;> rfl
  unfold locate memBase
  simp only [hn]
  rw [if_neg (by omega), hM, hi4]
  rfl

theorem misaligned_eq_false {addr : Addr} : misaligned addr = false ↔ addr.toNat % 4 = 0 := by
  simp [misaligned]

theorem misaligned_eq_true {addr : Addr} : misaligned addr = true ↔ addr.toNat % 4 ≠ 0 := by
  simp [misaligned]

/-- Everything a read can be. A read never changes the state. -/
theorem State.hostRead_cases (s : State) (addr : Addr) :
    (s.hostRead addr = some (s, .busError) ∧ (misaligned addr = true ∨ locate addr = none)) ∨
    (s.hostRead addr = none ∧ s.busy = true) ∨
    (∃ l, locate addr = some l ∧ s.hostRead addr = some (s, .data (s.readLoc l))) := by
  unfold State.hostRead
  split
  · exact .inl ⟨rfl, .inl ‹_›⟩
  · split
    · exact .inl ⟨rfl, .inr ‹_›⟩
    · rename_i l hl
      split
      · rename_i hb; simp only [Bool.and_eq_true] at hb; exact .inr (.inl ⟨rfl, hb.1⟩)
      · exact .inr (.inr ⟨l, hl, rfl⟩)

/-- Everything a write can be. -/
theorem State.hostWrite_cases (s : State) (addr : Addr) (d : Word) :
    s.hostWrite addr d = some (s, .busError) ∨
    (s.hostWrite addr d = none ∧ s.busy = true) ∨
    (∃ l, locate addr = some l ∧ l.readOnly = false ∧ (s.busy = true → l = .reg .ctrl) ∧
      s.hostWrite addr d = some (s.writeLoc l d)) := by
  unfold State.hostWrite
  split
  · exact .inl rfl
  · split
    · exact .inl rfl
    · rename_i l hl
      split
      · exact .inl rfl
      · split
        · rename_i hb; simp only [Bool.and_eq_true] at hb; exact .inr (.inl ⟨rfl, hb.1⟩)
        · rename_i hr hb
          refine .inr (.inr ⟨l, hl, by simpa using hr, fun hbusy => ?_, rfl⟩)
          simp only [hbusy, Bool.true_and] at hb
          unfold Loc.writesWhileBusy at hb
          split at hb
          · rfl
          · simp at hb

/-! ## The step -/

/-- Everything a step can be: the engine's turn (with an empty agenda, from the agenda, or because the host's transaction
is held), a reset, or a host transaction that completes. -/
theorem step_cases (s : State) :
    (s.agenda = [] ∧ step s = s.engineStep) ∨
    (∃ rest, s.agenda = .engine :: rest ∧ step s = State.engineStep { s with agenda := rest }) ∨
    (∃ rest, s.agenda = .reset :: rest ∧ step s = .next (State.resetEvent { s with agenda := rest })) ∨
    (∃ t rest, s.agenda = .host t :: rest ∧ s.hostTxn t = none ∧ step s = s.engineStep) ∨
    (∃ t rest s' r, s.agenda = .host t :: rest ∧ s.hostTxn t = some (s', r) ∧
      step s = .next { s' with agenda := rest, response := some r }) := by
  unfold step
  split
  · exact .inl ⟨‹_›, rfl⟩
  · rename_i rest h; exact .inr (.inl ⟨rest, h, rfl⟩)
  · rename_i rest h; exact .inr (.inr (.inl ⟨rest, h, rfl⟩))
  · rename_i t rest h
    unfold State.hostTurn
    cases ht : s.hostTxn t with
    | none => exact .inr (.inr (.inr (.inl ⟨t, rest, h, ht, rfl⟩)))
    | some p => obtain ⟨s', r⟩ := p; exact .inr (.inr (.inr (.inr ⟨t, rest, s', r, h, ht, rfl⟩)))

end Sys2Proof.Machine
end

