-- ==== Sys2Proof/Laws/Network.lean ====
section
/-! SUPPORT. The networks keep the length of their sequence. -/

namespace Sys2Proof.Machine

variable {α : Type} {K : ElemOps α}

@[simp] theorem fwdButterfly_length (S : α) (t j : Nat) (a : List α) : (fwdButterfly K S t j a).length = a.length := by
  simp [fwdButterfly]

@[simp] theorem invButterfly_length (S : α) (t j : Nat) (a : List α) : (invButterfly K S t j a).length = a.length := by
  simp [invButterfly]

/-- A loop over steps that keep the length keeps the length. -/
theorem foldl_length {β γ : Type} {f : List β → γ → List β} (h : ∀ a c, (f a c).length = a.length) (l : List γ)
    (a : List β) : (l.foldl f a).length = a.length := by
  induction l generalizing a with
  | nil => rfl
  | cons c l ih => rw [List.foldl_cons, ih, h]

@[simp] theorem fwdGroup_length (S : α) (t start : Nat) (a : List α) : (fwdGroup K S t start a).length = a.length :=
  foldl_length (fun _ _ => fwdButterfly_length _ _ _ _) _ _

@[simp] theorem fwdStage_length (root : Nat → α) (m t : Nat) (a : List α) :
    (fwdStage K root m t a).length = a.length :=
  foldl_length (fun _ _ => fwdGroup_length _ _ _ _) _ _

@[simp] theorem fwdStages_length (root : Nat → α) (k t m : Nat) (a : List α) :
    (fwdStages K root k t m a).length = a.length := by
  induction k generalizing t m a with
  | zero => rfl
  | succ k ih => rw [fwdStages, ih, fwdStage_length]

@[simp] theorem nttCore_length (root : Nat → α) (k : Nat) (a : List α) : (nttCore K root k a).length = a.length :=
  fwdStages_length _ _ _ _ _

@[simp] theorem invGroup_length (S : α) (t start : Nat) (a : List α) : (invGroup K S t start a).length = a.length :=
  foldl_length (fun _ _ => invButterfly_length _ _ _ _) _ _

@[simp] theorem invStage_length (iroot : Nat → α) (h t : Nat) (a : List α) :
    (invStage K iroot h t a).length = a.length :=
  foldl_length (fun _ _ => invGroup_length _ _ _ _) _ _

@[simp] theorem invStages_length (iroot : Nat → α) (k t m : Nat) (a : List α) :
    (invStages K iroot k t m a).length = a.length := by
  induction k generalizing t m a with
  | zero => rfl
  | succ k ih => rw [invStages, ih, invStage_length]

@[simp] theorem inttCore_length (ninv : Nat) (iroot : Nat → α) (k : Nat) (a : List α) :
    (inttCore ninv K iroot k a).length = a.length := by
  simp [inttCore]

@[simp] theorem liftLoop_length (F : Modulus) (ω : Fp2) (L : Nat) (c : List Nat) (r i : Nat) (p : Fp2) :
    (liftLoop F ω L c r i p).length = r := by
  induction r generalizing i p with
  | zero => rfl
  | succ r ih => rw [liftLoop, List.length_cons, ih]

@[simp] theorem liftSeq_length (F : Modulus) (ω : Fp2) (L : Nat) (c : List Nat) : (liftSeq F ω L c).length = L :=
  liftLoop_length _ _ _ _ _ _ _

@[simp] theorem projectLoop_length (F : Modulus) (wi p : Fp2) (b : List Fp2) :
    (projectLoop F wi p b).length = b.length := by
  induction b generalizing p with
  | nil => rfl
  | cons x xs ih => rw [projectLoop, List.length_cons, ih, List.length_cons]

theorem evens_length (f : List α) : (evens f).length = (f.length + 1) / 2 := by
  induction f using evens.induct with
  | case1 => simp [evens]
  | case2 => simp [evens]
  | case3 x y xs ih => simp only [evens, List.length_cons, ih]; omega

theorem odds_length (f : List α) : (odds f).length = f.length / 2 := by
  induction f using odds.induct with
  | case1 => simp [odds]
  | case2 => simp [odds]
  | case3 x y xs ih => simp only [odds, List.length_cons, ih]; omega

theorem mergeSeq_length {f g : List α} (h : f.length = g.length) : (mergeSeq f g).length = 2 * f.length := by
  induction f generalizing g with
  | nil => cases g <;> simp_all [mergeSeq]
  | cons x f ih =>
    cases g with
    | nil => simp at h
    | cons y g =>
      simp only [List.length_cons, Nat.add_right_cancel_iff] at h
      simp only [mergeSeq, List.length_cons, ih h]; omega

theorem mergeNttFrom_length (root : Nat → α) (h i : Nat) {f g : List α} (e : f.length = g.length) :
    (mergeNttFrom K root h i f g).length = 2 * f.length := by
  induction f generalizing g i with
  | nil => cases g <;> simp_all [mergeNttFrom]
  | cons x f ih =>
    cases g with
    | nil => simp at e
    | cons y g =>
      simp only [List.length_cons, Nat.add_right_cancel_iff] at e
      simp only [mergeNttFrom, List.length_cons, ih _ e]; omega

theorem mergeNtt_length (root : Nat → α) {f g : List α} (e : f.length = g.length) :
    (mergeNtt K root f g).length = 2 * f.length := mergeNttFrom_length _ _ _ e

theorem splitNttFrom_length (inv2 : Nat) (iroot : Nat → α) (h i : Nat) (f : List α) :
    (splitNttFrom inv2 K iroot h i f).1.length = f.length / 2 ∧ (splitNttFrom inv2 K iroot h i f).2.length = f.length / 2 := by
  induction f using evens.induct generalizing i with
  | case1 => simp [splitNttFrom]
  | case2 => simp [splitNttFrom]
  | case3 x y xs ih =>
    simp only [splitNttFrom, List.length_cons, (ih (i + 1)).1, (ih (i + 1)).2]
    omega

theorem nttRec_length (root : Nat → α) {k : Nat} {f : List α} (hk : 1 ≤ k) (h : f.length = 2 ^ k) :
    (nttRec K root k f).length = 2 ^ k := by
  induction k using Nat.strong_induction_on generalizing f with | _ k ih =>
  match k, hk with
  | 1, _ => simp [nttRec]
  | k + 2, _ =>
    have ih := fun {f : List α} => ih (k + 1) (by omega) (f := f) (by omega)
    rw [pow_succ] at h
    have he : (evens f).length = 2 ^ (k + 1) := by rw [evens_length]; omega
    have ho : (odds f).length = 2 ^ (k + 1) := by rw [odds_length]; omega
    have hE := ih he
    have hO := ih ho
    simp only [nttRec, splitSeq]
    rw [mergeNtt_length _ (by rw [hE, hO]), hE, pow_succ 2 (k + 1), Nat.mul_comm]

theorem inttRec_length (inv2 : Nat) (iroot : Nat → α) {k : Nat} {f : List α} (hk : 1 ≤ k) (h : f.length = 2 ^ k) :
    (inttRec inv2 K iroot k f).length = 2 ^ k := by
  induction k using Nat.strong_induction_on generalizing f with | _ k ih =>
  match k, hk with
  | 1, _ => simp [inttRec]
  | k + 2, _ =>
    have ih := fun {f : List α} => ih (k + 1) (by omega) (f := f) (by omega)
    rw [pow_succ] at h
    have hs := splitNttFrom_length (K := K) inv2 iroot (f.length / 2) 0 f
    have hE := ih (f := (splitNtt inv2 K iroot f).1) (by rw [splitNtt, hs.1]; omega)
    have hO := ih (f := (splitNtt inv2 K iroot f).2) (by rw [splitNtt, hs.2]; omega)
    simp only [inttRec]
    rw [mergeSeq_length (by rw [hE, hO]), hE, pow_succ 2 (k + 1), Nat.mul_comm]

end Sys2Proof.Machine
end

