-- ==== Sys2Proof/Laws/PerInstr.lean ====
section
/-! SUPPORT. Families of statements made per instruction. `EncodedFields`: what the three fields of the encoder's word
hold (`30_encoding.md` R60). -/

namespace Sys2Proof.Laws.EncodedFields

/-- The encoded word of a well-formed command has RSV = 0, the command's opcode in OPC and its LOGN value in LOGN. -/
def Statement (i : Instr) : Prop :=
  i.wf = true → rsvField (encode i) = 0#20 ∧ opcField (encode i) = i.opcode ∧ lognField (encode i) = i.lognValue

/-- The shared proof: only the size of LOGN is the command's own. -/
theorem of_small {i : Instr} (h : i.wf = true → i.lognValue < 16) : Statement i := fun hw =>
  ⟨rsvField_encode i, opcField_encode i, by rw [lognField_encode, Nat.mod_eq_of_lt (h hw)]⟩

theorem nop : Statement .nop := of_small fun _ => by decide
theorem setmod : Statement .setmod := of_small fun _ => by decide
theorem clrerr : Statement .clrerr := of_small fun _ => by decide
theorem fadd : Statement .fadd := of_small fun _ => by decide
theorem fsub : Statement .fsub := of_small fun _ => by decide
theorem fmul : Statement .fmul := of_small fun _ => by decide
theorem finv : Statement .finv := of_small fun _ => by decide
theorem fsqrt : Statement .fsqrt := of_small fun _ => by decide
theorem f2add : Statement .f2add := of_small fun _ => by decide
theorem f2sub : Statement .f2sub := of_small fun _ => by decide
theorem f2mul : Statement .f2mul := of_small fun _ => by decide
theorem f2inv : Statement .f2inv := of_small fun _ => by decide
theorem f2sqrt : Statement .f2sqrt := of_small fun _ => by decide
theorem f2neg : Statement .f2neg := of_small fun _ => by decide
theorem ntti (logn : Nat) : Statement (.ntti logn) := of_small fun h => of_decide_eq_true h
theorem intti (logn : Nat) : Statement (.intti logn) := of_small fun h => of_decide_eq_true h
theorem nttil (logn : Nat) : Statement (.nttil logn) := of_small fun h => of_decide_eq_true h
theorem inttil (logn : Nat) : Statement (.inttil logn) := of_small fun h => of_decide_eq_true h
theorem nttr (logn : Nat) : Statement (.nttr logn) := of_small fun h => of_decide_eq_true h
theorem inttr (logn : Nat) : Statement (.inttr logn) := of_small fun h => of_decide_eq_true h

end Sys2Proof.Laws.EncodedFields
end

