-- ==== Sys2Proof/Laws/Primes.lean ====
section
/-! SUPPORT. The five moduli of the default `CFG_TABLE` (`00_scope.md` R7) are prime: Lucas's test, its powers computed by
repeated squaring. -/

namespace Sys2Proof.Laws

/-- r·b^e modulo p by repeated squaring, with a bound on the iterations as second argument. -/
def powModLoop (p : Nat) : Nat → Nat → Nat → Nat → Nat
  | 0, r, _, _ => r % p
  | fuel + 1, r, b, e => powModLoop p fuel (if e % 2 = 1 then r * b % p else r) (b * b % p) (e / 2)

theorem powModLoop_eq (p fuel r b e : Nat) (h : e < 2 ^ fuel) : powModLoop p fuel r b e = r * b ^ e % p := by
  induction fuel generalizing r b e with
  | zero => obtain rfl : e = 0 := by omega
            simp [powModLoop]
  | succ n ih =>
    rw [powModLoop, ih _ _ _ (by omega)]
    have hb : (b * b % p) ^ (e / 2) ≡ b ^ (2 * (e / 2)) [MOD p] := by
      rw [pow_mul, pow_two]; exact (Nat.mod_modEq _ _).pow _
    rcases Nat.mod_two_eq_zero_or_one e with h0 | h0
    · have he : 2 * (e / 2) = e := by omega
      simpa [h0, he, Nat.ModEq] using hb.mul_left r
    · have he : 2 * (e / 2) + 1 = e := by omega
      have := ((Nat.mod_modEq (r * b) p).mul hb).trans (by rw [mul_assoc, ← pow_succ', he])
      simpa [h0, Nat.ModEq] using this

/-- Lucas's test: `fs` are the prime factors of p - 1, `a` generates. -/
theorem prime_of_lucas (p a fuel : Nat) (fs : List Nat) (hp : 1 < p) (hfuel : p < 2 ^ fuel) (hfs : p - 1 = fs.prod)
    (hprime : ∀ r ∈ fs, r.Prime) (h1 : powModLoop p fuel 1 a (p - 1) = 1)
    (h2 : ∀ r ∈ fs, powModLoop p fuel 1 a ((p - 1) / r) ≠ 1) : p.Prime := by
  have cast : ∀ e, e < p → (((a : ZMod p) ^ e = 1) ↔ powModLoop p fuel 1 a e = 1) := by
    intro e he
    rw [powModLoop_eq _ _ _ _ _ (he.trans hfuel), one_mul, show (1 : ZMod p) = ((1 : ℕ) : ZMod p) by simp,
      ← Nat.cast_pow, ZMod.natCast_eq_natCast_iff', Nat.mod_eq_of_lt hp]
  refine lucas_primality p a ((cast _ (by omega)).2 h1) fun r hr hd h => ?_
  rw [hfs, hr.prime.dvd_prod_iff] at hd
  obtain ⟨x, hx, hd⟩ := hd
  obtain rfl := (Nat.prime_dvd_prime_iff_eq hr (hprime x hx)).1 hd
  exact h2 r hx ((cast _ (lt_of_le_of_lt (Nat.div_le_self _ _) (by omega))).1 h)

theorem prime_12289 : Nat.Prime 12289 := by norm_num

theorem prime_8380417 : Nat.Prime 8380417 := by norm_num

theorem prime_2013265921 : Nat.Prime 2013265921 :=
  prime_of_lucas _ 31 31 (List.replicate 27 2 ++ [3, 5]) (by norm_num) (by norm_num) (by norm_num)
    (by norm_num) (by decide +kernel) (by decide +kernel)

theorem prime_2130706433 : Nat.Prime 2130706433 :=
  prime_of_lucas _ 3 31 (List.replicate 24 2 ++ [127]) (by norm_num) (by norm_num) (by norm_num)
    (by norm_num) (by decide +kernel) (by decide +kernel)

theorem prime_2147483647 : Nat.Prime 2147483647 :=
  prime_of_lucas _ 7 31 [2, 3, 3, 7, 11, 31, 151, 331] (by norm_num) (by norm_num) (by norm_num)
    (by norm_num) (by decide +kernel) (by decide +kernel)

end Sys2Proof.Laws
end

