-- ==== Sys2Proof/Tests/Slice0.lean ====
section
/-! SUPPORT. Tests: ill-formed terms refused, every opcode decoded from its word, one or two single steps per command with
results from `spec/95_test_vectors.md` and the examples of the rules, and for each statement with hypotheses a witness that
concrete states and operands meet them. -/

open Sys2Proof Sys2Proof.Machine

namespace Sys2Proof.Tests

-- Elaborated one after another: the kernel evaluations of these theorems side by side would take a thread each.
set_option Elab.async false

/-! ## Helpers -/

/-- The next state, or the old one where there is none. -/
def after (s : State) : Host.Outcome State Fault Refusal → State
  | .next t => t
  | .fault _ => s
  | .refused _ => s

/-- The command word `w`, accepted and completed from `s`. -/
def run (w : Word) (s : State) : State := after s (s.accept w).engineStep

/-- A transaction performed from `s`; `s` where it is held. -/
def txn (t : Txn) (s : State) : State := ((s.hostTxn t).map fun r => r.1).getD s

/-- Words written to a memory from index `i` on. -/
def ldv (M : MemId) (i : Nat) (vs : List Nat) (s : State) : State :=
  { s with mem := memStoreSeq s.mem (M.wordAddr i) vs }

/-- q = 12289 configured, direct. -/
def direct : State := { State.reset with q := 12289#32, maxLog := 11#4, cfgValid := true }

/-- q = 2^31 - 1 configured, lifted. -/
def lifted : State := { State.reset with q := 2147483647#32, maxLog := 9#4, cfgValid := true, lift := true, mers := true }

/-- The operand registers. -/
def ops (a0 a1 b0 b1 : Nat) (s : State) : State :=
  { s with a0 := BitVec.ofNat 32 a0, a1 := BitVec.ofNat 32 a1, b0 := BitVec.ofNat 32 b0, b1 := BitVec.ofNat 32 b1 }

/-- The direct tables of n = 4 at q = 12289, entry 0 not canonical (`95_test_vectors.md` 2.5). -/
def directTables (s : State) : State :=
  ldv .iroot0 1 [10810, 7143, 4043] (ldv .root0 0 [0xFFFFFFFF, 1479, 8246, 5146] s)

/-- The lifted tables of n = 4 at q = 2^31 - 1 with NINV and ω (`95_test_vectors.md` P3). -/
def liftedTables (s : State) : State :=
  ldv .iroot1 1 [2147483646] (ldv .iroot0 1 [0] (ldv .root1 1 [1] (ldv .root0 1 [0]
    { s with ninv := 1073741824#32, liftW0 := 32768#32, liftW1 := 32768#32 })))

/-! ## Well-formedness: LOGN 16 does not fit its field (`30_encoding.md` R61) -/

theorem test_wf_refuses_ntti_16 : (Instr.ntti 16).wf = false := by decide

theorem test_wf_refuses_intti_16 : (Instr.intti 16).wf = false := by decide

theorem test_wf_refuses_nttil_16 : (Instr.nttil 16).wf = false := by decide

theorem test_wf_refuses_inttil_16 : (Instr.inttil 16).wf = false := by decide

theorem test_wf_refuses_nttr_16 : (Instr.nttr 16).wf = false := by decide

theorem test_wf_refuses_inttr_16 : (Instr.inttr 16).wf = false := by decide

theorem test_wf_accepts_15 : (Instr.ntti 15).wf = true := by decide

/-! ## Decoding: every opcode of `30_encoding.md` R62 from a word written out from its table -/

theorem test_decode_nop : decodeTableWord 32 0x00000000 = some .nop := by decide

theorem test_decode_setmod : decodeTableWord 32 0x00000001 = some .setmod := by decide

theorem test_decode_clrerr : decodeTableWord 32 0x00000002 = some .clrerr := by decide

theorem test_decode_fadd : decodeTableWord 32 0x00000010 = some .fadd := by decide

theorem test_decode_fsub : decodeTableWord 32 0x00000011 = some .fsub := by decide

theorem test_decode_fmul : decodeTableWord 32 0x00000012 = some .fmul := by decide

theorem test_decode_finv : decodeTableWord 32 0x00000013 = some .finv := by decide

theorem test_decode_fsqrt : decodeTableWord 32 0x00000014 = some .fsqrt := by decide

theorem test_decode_f2add : decodeTableWord 32 0x00000020 = some .f2add := by decide

theorem test_decode_f2sub : decodeTableWord 32 0x00000021 = some .f2sub := by decide

theorem test_decode_f2mul : decodeTableWord 32 0x00000022 = some .f2mul := by decide

theorem test_decode_f2inv : decodeTableWord 32 0x00000023 = some .f2inv := by decide

theorem test_decode_f2sqrt : decodeTableWord 32 0x00000024 = some .f2sqrt := by decide

theorem test_decode_f2neg : decodeTableWord 32 0x00000025 = some .f2neg := by decide

theorem test_decode_ntti : decodeTableWord 32 0x00000330 = some (.ntti 3) := by decide

theorem test_decode_intti : decodeTableWord 32 0x00000131 = some (.intti 1) := by decide

theorem test_decode_nttil : decodeTableWord 32 0x00000B32 = some (.nttil 11) := by decide

theorem test_decode_inttil : decodeTableWord 32 0x00000F33 = some (.inttil 15) := by decide

theorem test_decode_nttr : decodeTableWord 32 0x00000040 = some (.nttr 0) := by decide

theorem test_decode_inttr : decodeTableWord 32 0x00000241 = some (.inttr 2) := by decide

/-- The three kinds of illegal word (R63). -/
theorem test_decode_refuses :
    decodeTableWord 32 0x00001000 = none ∧ decodeTableWord 32 0x80000030 = none ∧ decodeTableWord 32 0x00000003 = none ∧
      decodeTableWord 32 0x00000050 = none ∧ decodeTableWord 32 0x00000110 = none ∧ decodeTableWord 32 0x00000F01 = none := by
  decide

/-! ## One command at a time -/

/-- R68, *Example*. -/
theorem test_nop :
    (run 0x00000000#32 State.reset).statusWord = 0x00000002#32 := by
  decide +kernel

/-- R69, *Example*. -/
theorem test_setmod :
    (let t := run 0x00000001#32 { State.reset with modq := 2147483647#32 };
      (t.statusWord, t.q, t.maxLog)) = (0x0000003A#32, 0x7FFFFFFF#32, 9#4) := by
  decide +kernel

/-- R69: `MODQ` = 0 is in no table. -/
theorem test_setmod_refuses :
    (let t := run 0x00000001#32 State.reset;
      (t.statusWord, t.errCode, t.errInfo)) = (0x00000004#32, 3#4, 0x00000001#32) := by
  decide +kernel

/-- R70, *Example*. -/
theorem test_clrerr :
    (let t := run 0x00000002#32 { direct with err := true, errCode := 2#4, errInfo := 0x00000013#32 };
      (t.statusWord, t.errCode, t.errInfo)) = (0x0000000A#32, 0#4, 0#32) := by
  decide +kernel

/-- R80, *Example*: the sum passes Q. -/
theorem test_fadd :
    (run 0x00000010#32 (ops 6000 0 7000 0 direct)).res0 = 711#32 := by
  decide +kernel

/-- R80, *Example*: a sum equal to Q. -/
theorem test_fadd_wraps :
    (run 0x00000010#32 (ops 12288 0 1 0 direct)).res0 = 0#32 := by
  decide +kernel

/-- R81, *Example*. -/
theorem test_fsub :
    (run 0x00000011#32 (ops 5 0 7 0 direct)).res0 = 12287#32 := by
  decide +kernel

/-- R82, *Example*. -/
theorem test_fmul :
    (run 0x00000012#32 (ops 3000 0 5000 0 direct)).res0 = 7420#32 := by
  decide +kernel

/-- R82, *Example*: the half-splitting datapath. -/
theorem test_fmul_mersenne :
    (run 0x00000012#32 (ops 305419896 0 123456789 0 lifted)).res0 = 1832721138#32 := by
  decide +kernel

/-- R83, *Example*: a negative Bézout coefficient. -/
theorem test_finv :
    (run 0x00000013#32 (ops 1479 0 0 0 direct)).res0 = 10810#32 := by
  decide +kernel

/-- R83: NotInvertible, `RES0` unchanged. -/
theorem test_finv_zero :
    (let t := run 0x00000013#32 { direct with res0 := 77#32 };
      (t.statusWord, t.errCode, t.errInfo, t.res0)) = (0x0000000C#32, 2#4, 0x00000013#32, 77#32) := by
  decide +kernel

/-- R84, *Example*: the root that is itself a residue. -/
theorem test_fsqrt :
    (run 0x00000014#32 (ops 9 0 0 0 lifted)).res0 = 2147483644#32 := by
  decide +kernel

/-- R84, *Example*: 3 is a non-residue. -/
theorem test_fsqrt_refuses :
    (run 0x00000014#32 (ops 3 0 0 0 lifted)).errCode = 5#4 := by
  decide +kernel

/-- R91, *Example*. -/
theorem test_f2add :
    (let t := run 0x00000020#32 (ops 2147483646 1 1 2147483646 lifted); (t.res0, t.res1)) = (0#32, 0#32) := by
  decide +kernel

/-- R92, *Example*. -/
theorem test_f2sub :
    (let t := run 0x00000021#32 (ops 0 0 1 2 lifted); (t.res0, t.res1)) = (2147483646#32, 2147483645#32) := by
  decide +kernel

/-- R93, *Example*. -/
theorem test_f2mul :
    (let t := run 0x00000022#32 (ops 3 4 5 6 lifted); (t.res0, t.res1)) = (2147483638#32, 38#32) := by
  decide +kernel

/-- R94, *Example*. -/
theorem test_f2inv :
    (let t := run 0x00000023#32 (ops 3 4 0 0 lifted); (t.res0, t.res1)) = (85899346#32, 601295421#32) := by
  decide +kernel

/-- R95, *Example*: the second candidate of R89. -/
theorem test_f2sqrt :
    (let t := run 0x00000024#32 (ops 3 4 0 0 lifted); (t.res0, t.res1)) = (2#32, 1#32) := by
  decide +kernel

/-- R95, *Example*: the norm 5 is a non-residue. -/
theorem test_f2sqrt_refuses :
    (run 0x00000024#32 (ops 1 2 0 0 lifted)).errCode = 5#4 := by
  decide +kernel

/-- R96, *Example*: a zero component stays 0. -/
theorem test_f2neg :
    (let t := run 0x00000025#32 (ops 0 5 0 0 lifted); (t.res0, t.res1)) = (0#32, 2147483642#32) := by
  decide +kernel

/-- R112, *Example*, n = 4. -/
theorem test_ntti :
    (run 0x00000230#32 (directTables (ldv .buf0 0 [1, 2, 3, 4] direct))).bufFp 4 = [4647, 4229, 1973, 1444] := by
  decide +kernel

/-- P3: both buffers written, the upper coefficients kept. -/
theorem test_ntti_lifted :
    (let t := run 0x00000230#32 (liftedTables (ldv .buf0 0 [1, 2, 3, 4] lifted));
      (t.bufFp 4, t.memSeq .buf1 2)) = ([65537, 2147418112, 3, 4], [196605, 2147287036]) := by
  decide +kernel

/-- R113, *Example*, n = 4. -/
theorem test_intti :
    (run 0x00000231#32 (directTables (ldv .buf0 0 [4647, 4229, 1973, 1444] { direct with ninv := 9217#32 }))).bufFp 4 =
      [1, 2, 3, 4] := by
  decide +kernel

/-- P3: the lifted inverse. -/
theorem test_intti_lifted :
    (let t := run 0x00000231#32
        (liftedTables (ldv .buf1 0 [196605, 2147287036] (ldv .buf0 0 [65537, 2147418112, 3, 4] lifted)));
      (t.bufFp 4, t.memSeq .buf1 2)) = ([1, 2, 3, 4], [2147483644, 2147483643]) := by
  decide +kernel

/-- R118, *Example*. -/
theorem test_nttil :
    (run 0x00000232#32 (directTables (ldv .buf0 0 [1, 2, 3, 4] direct))).bufFp 4 = [4647, 4229, 1973, 1444] := by
  decide +kernel

/-- R118, *Example*: the accumulators after stage 1. -/
theorem test_nttil_accumulators :
    (lazyFwdStages 12289 (fun j => [0, 1479, 8246, 5146].getD j 0) 2 4 1 0 [1, 2, 3, 4]).toOption =
      some [48804266, 6597557842178, 1036281859592, 5561727455056] := by
  decide +kernel

/-- R119, *Example*. -/
theorem test_inttil :
    (run 0x00000233#32 (directTables (ldv .buf0 0 [4647, 4229, 1973, 1444] { direct with ninv := 9217#32 }))).bufFp 4 =
      [1, 2, 3, 4] := by
  decide +kernel

/-- R119, *Example*: the accumulators after stage 1. -/
theorem test_inttil_accumulators :
    (lazyInvStages 12289 (fun j => [0, 10810, 7143, 4043].getD j 0) 2 1 4 0 [4647, 4229, 1973, 1444]).toOption =
      some [12293, 2252227654057, 71320127811121870, 78067341377207950] := by
  decide +kernel

/-- R126, *Example*, n = 4. -/
theorem test_nttr :
    (run 0x00000240#32 (directTables (ldv .buf0 0 [1, 2, 3, 4] direct))).bufFp 4 = [4647, 4229, 1973, 1444] := by
  decide +kernel

/-- `95_test_vectors.md` 2.8: `NINV` = 1 does not matter. -/
theorem test_inttr :
    (run 0x00000241#32 (directTables (ldv .buf0 0 [4647, 4229, 1973, 1444] { direct with ninv := 1#32 }))).bufFp 4 =
      [1, 2, 3, 4] := by
  decide +kernel

/-- P3: the lifted inverse. -/
theorem test_inttr_lifted :
    (let t := run 0x00000241#32
        (liftedTables (ldv .buf1 0 [196605, 2147287036] (ldv .buf0 0 [65537, 2147418112, 3, 4] lifted)));
      (t.bufFp 4, t.memSeq .buf1 2)) = ([1, 2, 3, 4], [2147483644, 2147483643]) := by
  decide +kernel

/-! ## The host port -/

/-- R45, R48, R49: the edges of the map. -/
theorem test_port_boundaries :
    [0x0044, 0x0048, 0x1FFC, 0x2000, 0xDFFC, 0xE000, 0xFFFC, 0x0001].map (fun a =>
      (State.reset.hostRead (BitVec.ofNat 16 a)).map fun r => decide (r.2 = .busError)) =
      [some false, some true, some true, some false, some false, some true, some true, some true] := by
  decide +kernel

/-- P4: with an error latched FADD gets a bus error and changes nothing. -/
theorem test_refused_command :
    { direct with err := true, errCode := 2#4 }.hostWrite 0x0014#16 0x00000010#32 =
      some ({ direct with err := true, errCode := 2#4 }, .busError) := by
  decide +kernel

/-! ## Witnesses: the hypotheses of each statement met together, clause by clause -/

theorem finish_next (s : State) (r : Except CmdError State) : s.finish r = .next (after s (s.finish r)) := by
  cases r <;> rfl

theorem exec_next (i : Instr) (s : State) : exec i s = .next (after s (exec i s)) := by
  cases i
  case nop => exact finish_next s (.ok s)
  case clrerr => exact finish_next s (.ok s.leaveError)
  all_goals exact finish_next s _

/-- A state ready for every direct transform of length 4, forward or inverse. -/
def directReady : State := directTables (ldv .buf0 0 [1, 2, 3, 4] { direct with ninv := 9217#32 })

/-- A state ready for every lifted transform of length 4, forward or inverse. -/
def liftedReady : State := liftedTables (ldv .buf1 0 [196605, 2147287036] (ldv .buf0 0 [1, 2, 3, 4] lifted))

theorem default_entries_ok : ∀ e ∈ Config.cfgTable, entryOk e := by
  simp [Config.cfgTable, entryOk, Config.lognMax, Laws.prime_12289, Laws.prime_8380417, Laws.prime_2013265921,
    Laws.prime_2130706433, Laws.prime_2147483647]

theorem inv_intro (s : State) (e : Config.ModEntry) (hm : s.mem.wf = true) (ht : s.cfgTable = Config.cfgTable)
    (hc : (chooseModulus s.cfgTable s.q.toNat).toOption = some e ∧ s.maxLog.toNat = e.maxLog ∧ s.lift = needsLift e ∧
      s.mers = decide (e.q = Config.mersQ) ∧ s.cfgValid = true)
    (hl : s.err = false ∧ s.errCode = 0#4 ∧ s.errInfo = 0#32) (hf : s.busy = true → s.done = false) : s.Inv :=
  have hch : chooseModulus s.cfgTable s.q.toNat = .ok e := by
    cases h : chooseModulus s.cfgTable s.q.toNat with
    | ok e' => exact congrArg _ (Option.some.inj (by simpa [h, Except.toOption] using hc.1))
    | error c => simp [h, Except.toOption] at hc
  ⟨hm, fun e' he => default_entries_ok e' (ht ▸ he), ⟨fun _ => ⟨e, hch, hc.2.1, hc.2.2.1, hc.2.2.2.1⟩, by simp [hc.2.2.2.2]⟩,
    by simp [State.LatchOk, hl], fun h => ⟨hf h, by simp [hl.1]⟩⟩

theorem inv_directReady : directReady.Inv :=
  inv_intro _ ⟨12289, 11⟩ (by decide +kernel) (by decide +kernel) (by decide +kernel) (by decide +kernel) (by decide +kernel)

theorem inv_liftedReady : liftedReady.Inv :=
  inv_intro _ ⟨2147483647, 9⟩ (by decide +kernel) (by decide +kernel) (by decide +kernel) (by decide +kernel) (by decide +kernel)

theorem ok_12289 : (⟨12289, false⟩ : Modulus).Ok := ⟨Laws.prime_12289, by decide, by decide, by decide⟩

theorem ok_mersenne : (⟨2147483647, true⟩ : Modulus).Ok := ⟨Laws.prime_2147483647, by decide, by decide, by decide⟩

/-- A command in flight. -/
def flying (w : Word) (s : State) : State := { s with cmdLatch := w, busy := true, done := false }

theorem inv_flying : (flying 0x00000230#32 directReady).Inv :=
  inv_intro _ ⟨12289, 11⟩ (by decide +kernel) (by decide +kernel) (by decide +kernel) (by decide +kernel) (by decide +kernel)

theorem witness_ResetRegistersReadAsTheSpecSays : (1 ≤ 1 ∧ 1 ≤ 17) ∧ (1 ≤ 17 ∧ 17 ≤ 17) := by decide

theorem witness_ResetEventRestoresEveryRegister :
    { flying 0x00000230#32 directReady with agenda := [.reset, .engine] }.agenda = .reset :: [.engine] := rfl

theorem witness_DecodeAndEncodeAgree :
    (Instr.ntti 0).wf = true ∧ (Instr.inttr 15).wf = true ∧ decode 0x00000030#32 = .ok (.ntti 0) ∧
      decode 0x00000F41#32 = .ok (.inttr 15) := ⟨rfl, rfl, rfl, rfl⟩

theorem witness_IllegalWordIsAcceptedAndRaisesIllegalCommand :
    (∃ d, decode 0x00001000#32 = .error d) ∧ (∃ d, decode 0xFFFFF030#32 = .error d) ∧
      (∃ d, decode 0x000000FF#32 = .error d) ∧ (∃ d, decode 0x00000125#32 = .error d) ∧
      State.reset.busy = false ∧ State.reset.err = false :=
  ⟨⟨_, rfl⟩, ⟨_, rfl⟩, ⟨_, rfl⟩, ⟨_, rfl⟩, rfl, rfl⟩

theorem witness_StepRunsTheDecodedCommand :
    (flying 0x00000230#32 directReady).busy = true ∧ decode (flying 0x00000230#32 directReady).cmdLatch = .ok (.ntti 2) ∧
      (flying 0x00000230#32 directReady).agenda = [] ∧
      { flying 0x00000230#32 directReady with agenda := [.engine] }.agenda = .engine :: [] ∧
      (∃ d, decode (flying 0x00000110#32 directReady).cmdLatch = .error d) ∧
      State.reset.busy = false ∧ State.reset.agenda = [] ∧ decode 0x00000F30#32 = .ok (.ntti 15) :=
  ⟨rfl, rfl, rfl, rfl, ⟨_, rfl⟩, rfl, rfl, rfl⟩

theorem witness_EveryStepKeepsTheInvariant :
    (flying 0x00000230#32 directReady).Inv ∧ ∃ t, step (flying 0x00000230#32 directReady) = .next t :=
  ⟨inv_flying, _, exec_next (.ntti 2) (flying 0x00000230#32 directReady)⟩

theorem witness_WordWrittenReadsBackAndNothingElseChanges :
    0 < Config.nmax ∧ 2047 < Config.nmax ∧ 0 < 4 ∧ 3 < 4 ∧ (MemId.buf1 ≠ MemId.buf0 ∨ 2047 ≠ 2047) ∧
      (MemId.buf0 ≠ MemId.buf0 ∨ 2046 ≠ 2047) := by decide

theorem witness_HostPortReachesEveryMemoryWord : 0 < Config.nmax ∧ 2047 < Config.nmax ∧ directReady.busy = false := by
  decide

theorem witness_MisalignedTransactionGetsBusError :
    (0x0001#16).toNat % 4 ≠ 0 ∧ (0x0047#16).toNat % 4 ≠ 0 ∧ (0xFFFF#16).toNat % 4 ≠ 0 := by decide

/-- Each cause of a bus error at the edges of its range, and the addresses next to them. -/
theorem witness_BusErrorHasExactlyItsCausesAndNoEffect :
    [Txn.read 0x0001#16, .read 0x0048#16, .read 0x1FFC#16, .read 0xE000#16, .read 0xFFFC#16, .write 0x0000#16 0#32,
      .write 0x0044#16 0#32, .write 0x1FFC#16 0#32].all (fun t =>
        decide (State.reset.hostTxn t = some (State.reset, .busError))) = true ∧
    { direct with err := true }.hostTxn (.write 0x0014#16 0x00000003#32) = some ({ direct with err := true }, .busError) ∧
    [Txn.read 0x0044#16, .read 0x2000#16, .read 0xDFFC#16, .write 0x0014#16 0#32].all (fun t =>
        decide (State.reset.hostTxn t ≠ some (State.reset, .busError))) = true := by decide +kernel

theorem witness_RegisterMapReadsAndWritesItsRegisters : directReady.busy = false := rfl

theorem witness_StatusShowsItsFlagsAndWritesClearDoneOnly : directReady.busy = false := rfl

theorem witness_CommandLaunchAcceptsOrRefuses :
    directReady.busy = false ∧ { directReady with err := true }.busy = false ∧
      ({ directReady with err := true }.err = true ∧ 0x00000010#32 ≠ 0x00000002#32) := by decide +kernel

theorem witness_BusyHoldsEverythingElse :
    let s := { flying 0x00000230#32 directReady with agenda := [.host (.read 0x0040#16)] }
    s.busy = true ∧ s.hostTxn (.read 0x0040#16) = none ∧ s.hostTxn (.read 0x2000#16) = none ∧
      s.hostTxn (.write 0xDFFC#16 0#32) = none ∧ s.agenda = .host (.read 0x0040#16) :: [] := by decide +kernel

theorem witness_CompletedTransactionIsOneStep :
    let s := { flying 0x00000230#32 directReady with agenda := [.host (.write 0x0004#16 3#32)] }
    s.agenda = .host (.write 0x0004#16 3#32) :: [] ∧ s.busy = true ∧
      s.hostTxn (.write 0x0004#16 3#32) = some ({ s with ieDone := true, ieErr := true }, .ok) := by decide +kernel

theorem witness_ErrorsArePrecise :
    directReady.err = false ∧ directReady.busy = false ∧
      ∃ t, State.engineStep { directReady with cmdLatch := 0x00000013#32, busy := true, done := false } = .next t ∧
        t.err = true :=
  ⟨rfl, rfl, _, exec_next .finv (flying 0x00000013#32 directReady), by decide +kernel⟩

theorem witness_CommandsNeedAConfiguredModulus :
    Instr.fadd ≠ .nop ∧ Instr.fadd ≠ .setmod ∧ Instr.fadd ≠ .clrerr ∧ State.reset.cfgValid = false := by decide

theorem witness_CommandsNeedTheirModulusStructure :
    Instr.f2neg.isFp2 = true ∧ direct.cfgValid = true ∧ direct.q.toNat % 4 ≠ 3 ∧ lifted.cfgValid = true ∧
      lifted.q.toNat ≠ 12289 := by decide

theorem witness_TransformsOfOtherLengthsRaiseInvalidLength :
    (Instr.nttil 0).transformLogn = some 0 ∧ direct.cfgValid = true ∧ direct.q.toNat = 12289 ∧ ¬direct.lengthAllowed 0 ∧
      ¬direct.lengthAllowed 12 ∧ ¬direct.lengthAllowed 15 ∧ (Instr.inttr 1).transformLogn = some 1 ∧
      lifted.cfgValid = true ∧ ¬(∃ l, Instr.inttr 1 = .nttil l ∨ Instr.inttr 1 = .inttil l) ∧ ¬lifted.lengthAllowed 1 ∧
      ¬lifted.lengthAllowed 10 ∧ directReady.Inv ∧ directReady.lengthAllowed 1 ∧ directReady.lengthAllowed 11 ∧
      liftedReady.Inv ∧ liftedReady.lengthAllowed 2 ∧ liftedReady.lengthAllowed 9 := by
  refine ⟨rfl, rfl, rfl, ?_, ?_, ?_, rfl, rfl, by simp, ?_, ?_, inv_directReady, ?_, ?_, inv_liftedReady, ?_, ?_⟩ <;>
    · unfold State.lengthAllowed; decide +kernel

theorem witness_NonCanonicalOperandsAreRefused :
    let d := ops 12289 0 0 0 direct
    let d' := ops 12288 0 12289 0 direct
    let l := ops 0 2147483647 0 0 lifted
    let l' := ops 0 0 0 2147483647 lifted
    (d.cfgValid = true ∧ d.q.toNat ≤ d.a0.toNat) ∧ (d'.cfgValid = true ∧ d'.q.toNat ≤ d'.b0.toNat) ∧
      (l.cfgValid = true ∧ l.q.toNat % 4 = 3 ∧ l.q.toNat ≤ l.a1.toNat) ∧
      (l'.cfgValid = true ∧ l'.q.toNat % 4 = 3 ∧ l'.q.toNat ≤ l'.b1.toNat) := by decide +kernel

theorem witness_NonCanonicalVectorsAreRefused :
    let d := ldv .buf0 1 [12289] directReady
    let n := { directReady with ninv := 12289#32 }
    let l := ldv .root1 1 [2147483647] (ldv .buf1 1 [2147483647] liftedReady)
    (d.cfgValid = true ∧ d.q.toNat = 12289 ∧ d.lift = false ∧ d.lengthAllowed 1 ∧ ¬d.forwardCanonical 1 ∧
      ¬d.inverseCanonical 1 ∧ ¬(d.inverseCanonical 1 ∧ d.ninv.toNat < d.q.toNat)) ∧
    (n.cfgValid = true ∧ n.lengthAllowed 2 ∧ ¬(n.inverseCanonical 2 ∧ n.ninv.toNat < n.q.toNat)) ∧
    (l.cfgValid = true ∧ l.lift = true ∧ l.lengthAllowed 2 ∧ ¬l.forwardCanonical 2 ∧ ¬l.inverseCanonical 2) := by
  refine ⟨?_, ?_, ?_⟩ <;>
    · simp only [State.lengthAllowed, State.forwardCanonical, State.inverseCanonical, State.wordsBelowQ]
      decide +kernel

theorem witness_LiftedInverseNeedsAnInvertibleLiftRoot :
    let s := { liftedReady with liftW0 := 0#32, liftW1 := 0#32 }
    s.Inv ∧ s.cfgValid = true ∧ s.lift = true ∧ s.lengthAllowed 2 ∧ s.inverseCanonical 2 ∧ ¬s.liftRootInvertible ∧
      s.ninv.toNat < s.q.toNat := by
  refine ⟨inv_intro _ ⟨2147483647, 9⟩ (by decide +kernel) (by decide +kernel) (by decide +kernel) (by decide +kernel) (by decide +kernel), ?_⟩
  simp only [State.lengthAllowed, State.inverseCanonical, State.wordsBelowQ, State.liftRootInvertible]
  decide +kernel

/-- The default table and, for the clauses about any table, one with other moduli. -/
theorem witness_SetmodConfiguresTheTableModuliAndRefusesOthers :
    let other := { State.reset with cfgTable := [⟨17, 3⟩, ⟨7, 2⟩, ⟨13, 2⟩] }
    ((chooseModulus { other with modq := 17#32 }.cfgTable (17#32).toNat).toOption = some ⟨17, 3⟩ ∧
      (chooseModulus { other with modq := 7#32 }.cfgTable (7#32).toNat).toOption = some ⟨7, 2⟩ ∧
      (chooseModulus { other with modq := 13#32 }.cfgTable (13#32).toNat).toOption = none) ∧
    State.reset.cfgTable = Config.cfgTable ∧ { State.reset with modq := 12289#32 }.modq = 12289#32 ∧
      { State.reset with modq := 8380417#32 }.modq = 8380417#32 ∧
      { State.reset with modq := 2013265921#32 }.modq = 2013265921#32 ∧
      { State.reset with modq := 2130706433#32 }.modq = 2130706433#32 ∧
      { State.reset with modq := 2147483647#32 }.modq = 2147483647#32 ∧
      State.reset.modq.toNat ∉ [12289, 8380417, 2013265921, 2130706433, 2147483647] := by decide +kernel

theorem witness_TrailingZerosIsTheLargestPowerOfTwo : 0 < 1 ∧ 0 < 12288 ∧ 2 ^ 12 ∣ 12288 := by decide

theorem witness_DefaultTableMeetsItsConstraints :
    directReady.Inv ∧ directReady.cfgValid = true ∧ ⟨2147483647, 9⟩ ∈ Config.cfgTable :=
  ⟨inv_directReady, rfl, by decide⟩

/-- The largest canonical operands. -/
theorem witness_FaddAndFsubWriteTheResidue :
    let s := ops 12288 0 12288 0 direct
    s.cfgValid = true ∧ s.a0.toNat < s.q.toNat ∧ s.b0.toNat < s.q.toNat := by decide

theorem inv_ops (a0 a1 b0 b1 : Nat) (s : State) (h : s.Inv) : (ops a0 a1 b0 b1 s).Inv := ⟨h.1, h.2, h.3, h.4, h.5⟩

theorem witness_FmulWritesTheResidueOnBothDatapaths :
    let s := ops 12288 0 12288 0 directReady
    let m := ops 2147483646 0 2147483646 0 liftedReady
    (s.Inv ∧ s.cfgValid = true ∧ s.a0.toNat < s.q.toNat ∧ s.b0.toNat < s.q.toNat) ∧
    (m.Inv ∧ m.cfgValid = true ∧ m.a0.toNat < m.q.toNat ∧ m.b0.toNat < m.q.toNat) :=
  ⟨⟨inv_ops _ _ _ _ _ inv_directReady, by decide +kernel⟩, ⟨inv_ops _ _ _ _ _ inv_liftedReady, by decide +kernel⟩⟩

theorem witness_FinvWritesTheInverse :
    let s := ops 12288 0 0xFFFFFFFF 0 directReady
    let z := ops 0 0 0 0 directReady
    (s.Inv ∧ s.cfgValid = true ∧ s.a0.toNat < s.q.toNat ∧ s.a0 ≠ 0#32) ∧
    (z.Inv ∧ z.cfgValid = true ∧ z.a0.toNat < z.q.toNat ∧ z.a0 = 0#32) :=
  ⟨⟨inv_ops _ _ _ _ _ inv_directReady, by decide +kernel⟩, ⟨inv_ops _ _ _ _ _ inv_directReady, by decide +kernel⟩⟩

theorem witness_PowerBySquaringIsThePower : (⟨12289, false⟩ : Modulus).Ok ∧ 12288 < 12289 := ⟨ok_12289, by decide⟩

/-- -1 is no square modulo 2^31 - 1. -/
theorem no_root_of_minus_one (y : Nat) : y * y % 2147483647 ≠ 2147483646 := by
  intro h
  have : Fact (Nat.Prime 2147483647) := ⟨Laws.prime_2147483647⟩
  have h1 : ((y * y : ℕ) : ZMod 2147483647) = ((2147483646 : ℕ) : ZMod 2147483647) :=
    (ZMod.natCast_eq_natCast_iff' _ _ _).2 (by rw [h])
  have h2 : ((2147483646 : ℕ) : ZMod 2147483647) = -1 := by
    rw [eq_neg_iff_add_eq_zero]; exact_mod_cast ZMod.natCast_self 2147483647
  rw [h2] at h1
  exact ZMod.mod_four_ne_three_of_sq_eq_neg_one (y := (y : ZMod 2147483647)) (by rw [pow_two, ← h1]; push_cast; ring)
    (by norm_num)

theorem witness_FsqrtWritesTheRootOrRaisesNotASquare :
    let s := ops 9 0 0 0 liftedReady
    let n := ops 2147483646 0 0 0 liftedReady
    (s.Inv ∧ s.cfgValid = true ∧ s.q.toNat % 4 = 3 ∧ s.a0.toNat < s.q.toNat ∧ ∃ y, y * y % s.q.toNat = s.a0.toNat) ∧
    (n.Inv ∧ n.cfgValid = true ∧ n.q.toNat % 4 = 3 ∧ n.a0.toNat < n.q.toNat ∧ ¬∃ y, y * y % n.q.toNat = n.a0.toNat) :=
  ⟨⟨inv_ops _ _ _ _ _ inv_liftedReady, by decide +kernel, by decide +kernel, by decide +kernel, 3, by decide +kernel⟩,
    ⟨inv_ops _ _ _ _ _ inv_liftedReady, by decide +kernel, by decide +kernel, by decide +kernel,
      fun ⟨y, h⟩ => no_root_of_minus_one y h⟩⟩

/-- Canonical pairs at their largest values. -/
theorem witness_F2addF2subF2negWriteTheResidues :
    let s := ops 2147483646 2147483646 2147483646 2147483646 lifted
    s.cfgValid = true ∧ s.q.toNat % 4 = 3 ∧ s.a0.toNat < s.q.toNat ∧ s.a1.toNat < s.q.toNat ∧ s.b0.toNat < s.q.toNat ∧
      s.b1.toNat < s.q.toNat := by decide

theorem witness_F2mulWritesTheProduct :
    let s := ops 2147483646 2147483646 2147483646 2147483646 liftedReady
    s.Inv ∧ s.cfgValid = true ∧ s.q.toNat % 4 = 3 ∧ s.a0.toNat < s.q.toNat ∧ s.a1.toNat < s.q.toNat ∧
      s.b0.toNat < s.q.toNat ∧ s.b1.toNat < s.q.toNat :=
  ⟨inv_ops _ _ _ _ _ inv_liftedReady, by decide +kernel⟩

theorem witness_F2invWritesTheInverse :
    let s := ops 0 1 0 0 liftedReady
    let z := ops 0 0 0 0 liftedReady
    (s.Inv ∧ s.cfgValid = true ∧ s.q.toNat % 4 = 3 ∧ s.a0.toNat < s.q.toNat ∧ s.a1.toNat < s.q.toNat ∧
      ¬(s.a0 = 0#32 ∧ s.a1 = 0#32)) ∧
    (z.Inv ∧ z.cfgValid = true ∧ z.q.toNat % 4 = 3 ∧ z.a0.toNat < z.q.toNat ∧ z.a1.toNat < z.q.toNat ∧
      z.a0 = 0#32 ∧ z.a1 = 0#32) :=
  ⟨⟨inv_ops _ _ _ _ _ inv_liftedReady, by decide +kernel⟩, ⟨inv_ops _ _ _ _ _ inv_liftedReady, by decide +kernel⟩⟩

theorem norm_of_square (q y0 y1 : Nat) (h : y1 * y1 ≤ q * q) :
    (y0 * y0 + (q * q - y1 * y1)) * (y0 * y0 + (q * q - y1 * y1)) + 2 * y0 * y1 * (2 * y0 * y1) ≡
      (y0 * y0 + y1 * y1) * (y0 * y0 + y1 * y1) [MOD q] := by
  refine (ZMod.natCast_eq_natCast_iff _ _ _).1 ?_
  push_cast [Nat.cast_sub h, ZMod.natCast_self]
  ring

/-- (3, 4) is the square of (2, 1); a pair of norm -1 is no square, since the norm of a square is a square. -/
theorem witness_F2sqrtWritesARootOrRaisesNotASquare :
    let s := ops 3 4 0 0 liftedReady
    let n := ops 2 2041534867 0 0 liftedReady
    (s.Inv ∧ s.cfgValid = true ∧ s.q.toNat % 4 = 3 ∧ s.a0.toNat < s.q.toNat ∧ s.a1.toNat < s.q.toNat ∧
      ∃ y0 y1, y0 < s.q.toNat ∧ y1 < s.q.toNat ∧
        (y0 * y0 + (s.q.toNat * s.q.toNat - y1 * y1)) % s.q.toNat = s.a0.toNat ∧ 2 * y0 * y1 % s.q.toNat = s.a1.toNat) ∧
    (n.Inv ∧ n.cfgValid = true ∧ n.q.toNat % 4 = 3 ∧ n.a0.toNat < n.q.toNat ∧ n.a1.toNat < n.q.toNat ∧
      ¬∃ y0 y1, y0 < n.q.toNat ∧ y1 < n.q.toNat ∧
        (y0 * y0 + (n.q.toNat * n.q.toNat - y1 * y1)) % n.q.toNat = n.a0.toNat ∧
        2 * y0 * y1 % n.q.toNat = n.a1.toNat) := by
  refine ⟨⟨inv_ops _ _ _ _ _ inv_liftedReady, by decide +kernel, by decide +kernel, by decide +kernel, by decide +kernel,
      2, 1, by decide +kernel⟩, inv_ops _ _ _ _ _ inv_liftedReady, by decide +kernel, by decide +kernel, by decide +kernel,
      by decide +kernel, ?_⟩
  rintro ⟨y0, y1, -, h1, h2, h3⟩
  change y1 < 2147483647 at h1
  change (y0 * y0 + (2147483647 * 2147483647 - y1 * y1)) % 2147483647 = 2 at h2
  change 2 * y0 * y1 % 2147483647 = 2041534867 at h3
  have hle : y1 * y1 ≤ 2147483647 * 2147483647 := Nat.mul_le_mul h1.le h1.le
  refine no_root_of_minus_one (y0 * y0 + y1 * y1) ?_
  have e1 : (y0 * y0 + (2147483647 * 2147483647 - y1 * y1)) ≡ 2 [MOD 2147483647] := h2
  have e2 : 2 * y0 * y1 ≡ 2041534867 [MOD 2147483647] := h3
  have e3 := (e1.mul e1).add (e2.mul e2)
  have e4 := norm_of_square 2147483647 y0 y1 hle
  exact (e4.symm.trans e3 : _ ≡ 2 * 2 + 2041534867 * 2041534867 [MOD 2147483647])

theorem canonical_directReady : directReady.cfgValid = true ∧ directReady.lift = false ∧ directReady.lengthAllowed 2 ∧
    directReady.forwardCanonical 2 ∧ directReady.inverseCanonical 2 ∧ directReady.ninv.toNat < directReady.q.toNat ∧
    directReady.q.toNat = 12289 := by
  simp only [State.lengthAllowed, State.forwardCanonical, State.inverseCanonical, State.wordsBelowQ]
  decide +kernel

theorem canonical_liftedReady : liftedReady.cfgValid = true ∧ liftedReady.lift = true ∧ liftedReady.lengthAllowed 2 ∧
    liftedReady.forwardCanonical 2 ∧ liftedReady.inverseCanonical 2 ∧ liftedReady.ninv.toNat < liftedReady.q.toNat ∧
    liftedReady.liftRootInvertible := by
  simp only [State.lengthAllowed, State.forwardCanonical, State.inverseCanonical, State.wordsBelowQ,
    State.liftRootInvertible]
  decide +kernel

theorem witness_ForwardTransformsWriteTheirNetworks :
    (directReady.Inv ∧ directReady.cfgValid = true ∧ directReady.lengthAllowed 2 ∧ directReady.forwardCanonical 2 ∧
      directReady.lift = false) ∧
    (liftedReady.Inv ∧ liftedReady.cfgValid = true ∧ liftedReady.lengthAllowed 2 ∧ liftedReady.forwardCanonical 2 ∧
      liftedReady.lift = true) := by
  obtain ⟨d1, d2, d3, d4, -, -, -⟩ := canonical_directReady
  obtain ⟨l1, l2, l3, l4, -, -, -⟩ := canonical_liftedReady
  exact ⟨⟨inv_directReady, d1, d3, d4, d2⟩, ⟨inv_liftedReady, l1, l3, l4, l2⟩⟩

theorem witness_InverseTransformsWriteTheirNetworks :
    (directReady.Inv ∧ directReady.cfgValid = true ∧ directReady.lengthAllowed 2 ∧ directReady.inverseCanonical 2 ∧
      directReady.lift = false ∧ directReady.ninv.toNat < directReady.q.toNat) ∧
    (liftedReady.Inv ∧ liftedReady.cfgValid = true ∧ liftedReady.lengthAllowed 2 ∧ liftedReady.inverseCanonical 2 ∧
      liftedReady.lift = true ∧ liftedReady.liftRootInvertible ∧ liftedReady.ninv.toNat < liftedReady.q.toNat) := by
  obtain ⟨d1, d2, d3, -, d5, d6, -⟩ := canonical_directReady
  obtain ⟨l1, l2, l3, -, l5, l6, l7⟩ := canonical_liftedReady
  exact ⟨⟨inv_directReady, d1, d3, d5, d2, d6⟩, ⟨inv_liftedReady, l1, l3, l5, l2, l7, l6⟩⟩

theorem witness_LazyTransformsCompleteAndAgreeWithTheReducedNetworks :
    directReady.Inv ∧ directReady.cfgValid = true ∧ directReady.q.toNat = 12289 ∧ directReady.lengthAllowed 2 ∧
      directReady.forwardCanonical 2 ∧ directReady.inverseCanonical 2 ∧ directReady.ninv.toNat < directReady.q.toNat := by
  obtain ⟨d1, -, d3, d4, d5, d6, d7⟩ := canonical_directReady
  exact ⟨inv_directReady, d1, d7, d3, d4, d5, d6⟩

theorem witness_InverseEnginesEndInTheSameState :
    (directReady.Inv ∧ directReady.ninv.toNat =
      ((directReady.q.toNat + 1) / 2) ^ (if directReady.lift = true then 2 - 1 else 2) % directReady.q.toNat) ∧
    (liftedReady.Inv ∧ liftedReady.ninv.toNat =
      ((liftedReady.q.toNat + 1) / 2) ^ (if liftedReady.lift = true then 2 - 1 else 2) % liftedReady.q.toNat) :=
  ⟨⟨inv_directReady, by decide +kernel⟩, ⟨inv_liftedReady, by decide +kernel⟩⟩

theorem witness_LazyPathIsIndistinguishable : directReady.Inv ∧ directReady.q.toNat = 12289 :=
  ⟨inv_directReady, by decide +kernel⟩

theorem witness_RoundTripDirect :
    directReady.Inv ∧ directReady.cfgValid = true ∧ directReady.lift = false ∧ directReady.lengthAllowed 2 ∧
      directReady.forwardCanonical 2 ∧ directReady.wordsBelowQ .iroot0 1 (2 ^ 2) ∧
      directReady.ninv.toNat < directReady.q.toNat ∧
      (∀ j, 1 ≤ j → j < 2 ^ 2 → directReady.memNat .root0 j * directReady.memNat .iroot0 j % directReady.q.toNat = 1) ∧
      directReady.ninv.toNat * 2 ^ 2 % directReady.q.toNat = 1 := by
  obtain ⟨d1, d2, d3, d4, -, d6, -⟩ := canonical_directReady
  refine ⟨inv_directReady, d1, d2, d3, d4, ?_, d6, by decide +kernel, by decide +kernel⟩
  unfold State.wordsBelowQ; decide +kernel

theorem witness_RoundTripLifted :
    liftedReady.Inv ∧ liftedReady.cfgValid = true ∧ liftedReady.lift = true ∧ liftedReady.lengthAllowed 2 ∧
      liftedReady.forwardCanonical 2 ∧ liftedReady.wordsBelowQ .iroot0 1 (2 ^ (2 - 1)) ∧
      liftedReady.wordsBelowQ .iroot1 1 (2 ^ (2 - 1)) ∧ liftedReady.ninv.toNat < liftedReady.q.toNat ∧
      liftedReady.liftRootInvertible ∧
      (∀ j, 1 ≤ j → j < 2 ^ (2 - 1) →
        (liftedReady.memNat .root0 j * liftedReady.memNat .iroot0 j +
          (liftedReady.q.toNat * liftedReady.q.toNat - liftedReady.memNat .root1 j * liftedReady.memNat .iroot1 j)) %
            liftedReady.q.toNat = 1 ∧
        (liftedReady.memNat .root0 j * liftedReady.memNat .iroot1 j +
          liftedReady.memNat .root1 j * liftedReady.memNat .iroot0 j) % liftedReady.q.toNat = 0) ∧
      liftedReady.ninv.toNat * 2 ^ (2 - 1) % liftedReady.q.toNat = 1 := by
  obtain ⟨l1, l2, l3, l4, -, l6, l7⟩ := canonical_liftedReady
  refine ⟨inv_liftedReady, l1, l2, l3, l4, ?_, ?_, l6, l7, by decide +kernel, by decide +kernel⟩ <;>
    · unfold State.wordsBelowQ; decide +kernel

theorem witness_DirectTransformEvaluatesThePolynomial :
    directReady.Inv ∧ directReady.cfgValid = true ∧ directReady.lift = false ∧ directReady.lengthAllowed 2 ∧
      directReady.forwardCanonical 2 ∧ 8246 ^ 2 ^ 2 % directReady.q.toNat = directReady.q.toNat - 1 ∧
      (∀ j, 1 ≤ j → j < 2 ^ 2 → directReady.memNat .root0 j = 8246 ^ brv 2 j % directReady.q.toNat) := by
  obtain ⟨d1, d2, d3, d4, -, -, -⟩ := canonical_directReady
  exact ⟨inv_directReady, d1, d2, d3, d4, by decide +kernel, by decide +kernel⟩

theorem directTable_12289 :
    DirectTable ⟨12289, false⟩ 2 8246 9217 (fun j => [0, 1479, 8246, 5146].getD j 0)
      (fun j => [0, 10810, 7143, 4043].getD j 0) :=
  ⟨by decide, by decide, by decide, by decide +kernel⟩

/-- The lifted table of n = 4 (`95_test_vectors.md` P3). -/
theorem liftedTable_mersenne :
    LiftedTable ⟨2147483647, true⟩ 1 (0, 1) (32768, 32768) 1073741824 (fun _ => (0, 1)) (fun _ => (0, 2147483646)) := by
  refine ⟨?_, by decide +kernel, ?_, by decide +kernel, by decide, by decide, ?_⟩ <;>
    · simp only [Fp2.InversePair, Fp2.Canonical]; decide +kernel

theorem witness_PointwiseProductIsNegacyclicConvolution :
    ((⟨12289, false⟩ : Modulus).Ok ∧ 1 ≤ 2 ∧ [1, 2, 3, 4].length = 2 ^ 2 ∧ [12288, 0, 5, 6].length = 2 ^ 2 ∧
      (∀ x ∈ [1, 2, 3, 4], x < 12289) ∧ (∀ x ∈ [12288, 0, 5, 6], x < 12289) ∧
      DirectTable ⟨12289, false⟩ 2 8246 9217 (fun j => [0, 1479, 8246, 5146].getD j 0)
        (fun j => [0, 10810, 7143, 4043].getD j 0)) ∧
    ((⟨2147483647, true⟩ : Modulus).Ok ∧ 2147483647 % 4 = 3 ∧ 1 ≤ 1 ∧ [1, 2, 3, 4].length = 2 * 2 ^ 1 ∧
      [5, 6, 7, 2147483646].length = 2 * 2 ^ 1 ∧ (∀ x ∈ [1, 2, 3, 4], x < 2147483647) ∧
      (∀ x ∈ [5, 6, 7, 2147483646], x < 2147483647) ∧
      LiftedTable ⟨2147483647, true⟩ 1 (0, 1) (32768, 32768) 1073741824 (fun _ => (0, 1)) (fun _ => (0, 2147483646))) :=
  ⟨⟨ok_12289, by decide, by decide, by decide, by decide, by decide, directTable_12289⟩,
    ⟨ok_mersenne, by decide, by decide, by decide, by decide, by decide, by decide, liftedTable_mersenne⟩⟩

theorem witness_ProjectUndoesLift :
    (⟨2147483647, true⟩ : Modulus).Ok ∧ 2147483647 % 4 = 3 ∧ 32768 < 2147483647 ∧ ((32768, 32768) : Fp2) ≠ (0, 0) ∧
      [1, 2, 0, 2147483646].length = 2 * 2 ∧ (∀ x ∈ [1, 2, 0, 2147483646], x < 2147483647) :=
  ⟨ok_mersenne, by decide⟩

theorem witness_RecursiveStepsUndoEachOther :
    [1, 2, 3, 4].length % 2 = 0 ∧
    ((⟨12289, false⟩ : Modulus).Ok ∧ [12288].length = [0].length ∧ (∀ x ∈ [12288], x < 12289) ∧ (∀ x ∈ [0], x < 12289) ∧
      (∀ i, i < 1 → 1479 < 12289 ∧ 10810 < 12289 ∧ 1479 * 10810 % 12289 = 1)) ∧
    ((⟨2147483647, true⟩ : Modulus).Ok ∧ [((0, 2147483646) : Fp2)].length = [((5, 6) : Fp2)].length ∧
      (∀ x ∈ [((0, 2147483646) : Fp2)], Fp2.Canonical ⟨2147483647, true⟩ x) ∧
      (∀ x ∈ [((5, 6) : Fp2)], Fp2.Canonical ⟨2147483647, true⟩ x) ∧
      (∀ i, i < 1 → Fp2.InversePair ⟨2147483647, true⟩ (0, 1) (0, 2147483646))) := by
  refine ⟨by decide, ⟨ok_12289, by decide, by decide, by decide, by decide⟩, ok_mersenne, by decide, ?_⟩
  simp only [Fp2.InversePair, Fp2.Canonical]
  decide +kernel

theorem witness_CommandsWriteOnlyTheirRegisters :
    (∃ t, exec .fadd directReady = .next t) ∧ Instr.fadd ≠ .setmod ∧ Instr.nop.isFp = false ∧ Instr.nop.isFp2 = false ∧
      Instr.nop.transformLogn = none :=
  ⟨⟨_, exec_next _ _⟩, by decide, rfl, rfl, rfl⟩

theorem witness_NoCommandWritesATable :
    directReady.Inv ∧ (∃ t, exec (.ntti 2) directReady = .next t) ∧ MemId.root0 ≠ .buf0 ∧ MemId.root0 ≠ .buf1 ∧
      2047 < Config.nmax :=
  ⟨inv_directReady, ⟨_, exec_next _ _⟩, by decide, by decide, by decide⟩

theorem witness_CommandsWriteCanonicalValues :
    directReady.Inv ∧ directReady.done = false ∧ (∃ t, exec (.ntti 2) directReady = .next t ∧ t.done = true) ∧
      (∃ t, exec .fadd directReady = .next t ∧ t.done = true) ∧ liftedReady.Inv ∧ liftedReady.done = false ∧
      (∃ t, exec (.intti 2) liftedReady = .next t ∧ t.done = true) ∧
      (∃ t, exec .f2add liftedReady = .next t ∧ t.done = true) :=
  ⟨inv_directReady, rfl, ⟨_, exec_next _ _, by decide +kernel⟩, ⟨_, exec_next _ _, by decide +kernel⟩, inv_liftedReady, rfl,
    ⟨_, exec_next _ _, by decide +kernel⟩, ⟨_, exec_next _ _, by decide +kernel⟩⟩

theorem witness_CommandsIgnoreTheHostWrittenRegistersTheyDoNotRead :
    Instr.fmul.isFp2 = false ∧ (Instr.ntti 2).isFp2 = false ∧ ((Instr.ntti 2).isFp = false ∧ Instr.setmod.isFp = false) ∧
      Instr.setmod.isFp2 = false ∧ (Instr.f2neg = .finv ∨ Instr.f2neg = .fsqrt ∨ Instr.f2neg = .f2inv ∨
        Instr.f2neg = .f2sqrt ∨ Instr.f2neg = .f2neg) ∧ (∀ k, Instr.inttr 2 ≠ .intti k ∧ Instr.inttr 2 ≠ .inttil k) ∧
      (∀ k, Instr.f2mul ≠ .intti k ∧ Instr.f2mul ≠ .inttil k) ∧
      (Instr.f2mul.transformLogn = none ∨ liftedReady.lift = false) ∧
      ((Instr.intti 2).transformLogn = none ∨ directReady.lift = false) ∧ Instr.nop ≠ .setmod := by
  refine ⟨rfl, rfl, ⟨rfl, rfl⟩, rfl, by decide, by simp, by simp, .inl rfl, .inr rfl, by simp⟩

/-- Entry 0 of a table, the entry at L, a buffer word outside the form, `BUF1` and `IROOT1` in the direct configuration. -/
theorem witness_CommandsIgnoreTheWordsTheyDoNotRead :
    directReady.Inv ∧ (∃ t, exec (.ntti 2) directReady = .next t) ∧ 0 < Config.nmax ∧ 2047 < Config.nmax ∧
      ¬directReady.readsWord (.ntti 2) .root0 0 ∧ ¬directReady.readsWord (.nttil 2) .root0 4 ∧
      ¬directReady.readsWord (.nttr 2) .buf0 4 ∧ ¬directReady.readsWord (.intti 2) .buf1 0 ∧
      ¬directReady.readsWord (.inttr 2) .iroot1 1 ∧ ¬directReady.readsWord .fadd .buf0 2047 ∧
      ¬liftedReady.readsWord (.inttr 2) .buf0 2 := by
  refine ⟨inv_directReady, ⟨_, exec_next _ _⟩, by decide, by decide, ?_, ?_, ?_, ?_, ?_, ?_, ?_⟩ <;>
    · simp only [State.readsWord]; decide +kernel

end Sys2Proof.Tests
end

section
/-! The scope of the model (`00_scope.md`): `ctz` (R10), SETMOD's choice from a table (`40_system.md` R69), and the field
that a configuration from a table of R7 selects. -/

namespace Sys2Proof.Machine

/-! ## `ctz` -/

/-- With as many iterations as `x` has bits, the loop counts the factors 2 of `x`. -/
theorem pow_dvd_iff_le_ctzLoop {fuel x : Nat} (hx : 0 < x) (hf : x < 2 ^ fuel) (k : Nat) :
    2 ^ k ∣ x ↔ k ≤ ctzLoop fuel x := by
  induction fuel generalizing x k with
  | zero => omega
  | succ fuel ih =>
    cases k with
    | zero => simp
    | succ k =>
      rw [ctzLoop]
      split
      case isTrue hodd =>
        have h2 : ¬2 ^ (k + 1) ∣ x := fun h => by have := (dvd_pow_self 2 k.succ_ne_zero).trans h; omega
        simpa using h2
      case isFalse heven =>
        have hhalf : x = 2 * (x / 2) := by omega
        calc 2 ^ (k + 1) ∣ x ↔ 2 * 2 ^ k ∣ 2 * (x / 2) := by rw [← hhalf, pow_succ']
          _ ↔ 2 ^ k ∣ x / 2 := Nat.mul_dvd_mul_iff_left two_pos
          _ ↔ k ≤ ctzLoop fuel (x / 2) := ih (by omega) (by omega) k
          _ ↔ k + 1 ≤ ctzLoop fuel (x / 2) + 1 := Nat.add_le_add_iff_right.symm

theorem pow_dvd_iff_le_ctzNat {x : Nat} (hx : 0 < x) (k : Nat) : 2 ^ k ∣ x ↔ k ≤ ctzNat x :=
  pow_dvd_iff_le_ctzLoop hx Nat.lt_log2_self k

/-- Settles O33: the loop of `ctz` counts the factors 2, and its bound on the iterations is never reached. -/
theorem trailingZerosIsTheLargestPowerOfTwo : Obligations.TrailingZerosIsTheLargestPowerOfTwo :=
  fun _ hx => ⟨(pow_dvd_iff_le_ctzNat hx _).2 le_rfl, fun k => (pow_dvd_iff_le_ctzNat hx k).1⟩

/-! ## SETMOD's choice from a table -/

theorem mem_of_lookupModulus {table : List Config.ModEntry} {q : Nat} {e : Config.ModEntry}
    (h : lookupModulus table q = some e) : e ∈ table ∧ e.q = q := by
  unfold lookupModulus at h
  exact ⟨List.mem_of_find?_eq_some h, by simpa using List.find?_some h⟩

/-- The entry chosen stands in the table and has the modulus asked for. -/
theorem mem_of_chooseModulus {table : List Config.ModEntry} {q : Nat} {e : Config.ModEntry}
    (h : chooseModulus table q = .ok e) : e ∈ table ∧ e.q = q := by
  unfold chooseModulus at h
  split at h
  case h_1 => cases h
  case h_2 e' he' =>
    split at h
    case isTrue => cases h
    case isFalse => cases h; exact mem_of_lookupModulus he'

/-- SETMOD's only error is UnsupportedModulus. -/
theorem chooseModulus_error {table : List Config.ModEntry} {q : Nat} {c : CmdError}
    (h : chooseModulus table q = .error c) : c = .unsupportedModulus := by
  unfold chooseModulus at h
  split at h
  case h_1 => cases h; rfl
  case h_2 =>
    split at h
    case isTrue => cases h; rfl
    case isFalse => cases h

/-- A modulus of no entry is refused. -/
theorem chooseModulus_of_notMem {table : List Config.ModEntry} {q : Nat} (h : q ∉ table.map fun e => e.q) :
    chooseModulus table q = .error .unsupportedModulus := by
  have hnone : lookupModulus table q = none :=
    List.find?_eq_none.2 fun e he hq => h (List.mem_map.2 ⟨e, he, of_decide_eq_true hq⟩)
  rw [chooseModulus, hnone]

theorem execSetmod_ok {s : State} {e : Config.ModEntry} (h : chooseModulus s.cfgTable s.modq.toNat = .ok e) :
    exec .setmod s = .next (s.setConfig e (needsLift e) (decide (e.q = Config.mersQ))).complete := by
  change s.finish (chooseModulus s.cfgTable s.modq.toNat >>= _) = _
  rw [h]; rfl

theorem execSetmod_error {s : State} {c : CmdError} (h : chooseModulus s.cfgTable s.modq.toNat = .error c) :
    exec .setmod s = .next (s.enterError .unsupportedModulus) := by
  change s.finish (chooseModulus s.cfgTable s.modq.toNat >>= _) = _
  rw [h, chooseModulus_error h]; rfl

/-- SETMOD with an entry chosen, in terms of `MODQ` (R69). -/
theorem execSetmod_of_choice {s : State} {e : Config.ModEntry} (h : chooseModulus s.cfgTable s.modq.toNat = .ok e) :
    exec .setmod s = .next { s with
      q := s.modq, maxLog := BitVec.ofNat 4 e.maxLog, cfgValid := true
      lift := decide (ctzNat (s.modq.toNat - 1) < e.maxLog + 1), mers := decide (s.modq = 2147483647#32)
      done := true, busy := false } := by
  have hq : e.q = s.modq.toNat := (mem_of_chooseModulus h).2
  have hmers : (s.modq.toNat = Config.mersQ) = (s.modq = 2147483647#32) :=
    propext (BitVec.toNat_inj (y := 2147483647#32))
  rw [execSetmod_ok h]
  simp only [State.complete, State.setConfig, needsLift, hq, hmers, BitVec.ofNat_toNat, BitVec.setWidth_eq]

/-- SETMOD with the default table, `MODQ` being the modulus of the entry `e`. -/
theorem execSetmod_default {s : State} (ht : s.cfgTable = Config.cfgTable) (e : Config.ModEntry) (w : Word)
    (hw : s.modq = w) (he : chooseModulus Config.cfgTable w.toNat = .ok e) :
    exec .setmod s = .next { s with
      q := w, maxLog := BitVec.ofNat 4 e.maxLog, cfgValid := true
      lift := decide (ctzNat (w.toNat - 1) < e.maxLog + 1), mers := decide (w = 2147483647#32)
      done := true, busy := false } := by
  subst hw
  exact execSetmod_of_choice (ht ▸ he)

/-- Settles O31, clause by clause from the equations of SETMOD above; the five outcomes of the default table are its five
entries. -/
theorem setmodConfiguresTheTableModuliAndRefusesOthers :
    Obligations.SetmodConfiguresTheTableModuliAndRefusesOthers := by
  intro s
  refine ⟨fun e h => execSetmod_of_choice h, fun c h => execSetmod_error h, fun ht => ⟨?_, ?_, ?_, ?_, ?_, ?_⟩⟩
  · exact fun hw => execSetmod_default ht ⟨12289, 11⟩ _ hw rfl
  · exact fun hw => execSetmod_default ht ⟨8380417, 9⟩ _ hw rfl
  · exact fun hw => execSetmod_default ht ⟨2013265921, 9⟩ _ hw rfl
  · exact fun hw => execSetmod_default ht ⟨2130706433, 9⟩ _ hw rfl
  · exact fun hw => execSetmod_default ht ⟨2147483647, 9⟩ _ hw rfl
  · exact fun hw => execSetmod_error (chooseModulus_of_notMem (ht ▸ hw))

/-! ## The table and the field -/

theorem default_entryOk : ∀ e ∈ Config.cfgTable, entryOk e := by
  have small : ∀ e ∈ Config.cfgTable, e.q % 2 = 1 ∧ 3 ≤ e.q ∧ e.q < 2 ^ 31 ∧ e.maxLog ≤ Config.lognMax := by decide
  have prime : ∀ e ∈ Config.cfgTable, e.q.Prime := by
    simp [Config.cfgTable, Laws.prime_12289, Laws.prime_8380417, Laws.prime_2013265921, Laws.prime_2130706433,
      Laws.prime_2147483647]
  exact fun e he => ⟨prime e he, small e he⟩

/-- A configured modulus is that of an entry of the table, with that entry's multiplier. -/
theorem State.Inv.exists_entry {s : State} (h : s.Inv) (hv : s.cfgValid = true) :
    ∃ e, entryOk e ∧ e.q = s.q.toNat ∧ s.maxLog.toNat = e.maxLog ∧ s.mers = decide (e.q = Config.mersQ) := by
  obtain ⟨e, hchoose, hmaxLog, -, hmers⟩ := h.config.1 hv
  obtain ⟨hmem, hq⟩ := mem_of_chooseModulus hchoose
  exact ⟨e, h.table e hmem, hq, hmaxLog, hmers⟩

/-- In a state with the invariant and a configuration the arithmetic is that of a field. -/
theorem State.Inv.modulus_ok {s : State} (h : s.Inv) (hv : s.cfgValid = true) : s.modulus.Ok := by
  obtain ⟨e, ⟨hprime, hodd, -, hsmall, -⟩, hq, -, hmers⟩ := h.exists_entry hv
  rw [hq] at hprime hodd hsmall hmers
  exact ⟨hprime, hodd, hsmall, hmers⟩

/-- Settles O34: the default entries one by one, and the entry behind a configured modulus. -/
theorem defaultTableMeetsItsConstraints : Obligations.DefaultTableMeetsItsConstraints :=
  ⟨default_entryOk, rfl, fun _ h hv => h.modulus_ok hv⟩

end Sys2Proof.Machine
end
section
/-! Every step keeps the invariant of the machine (`10_state.md` R20, R25, R26, R29; `60_exceptions.md` R129, R136). First
what a command can do, said once: error entry, data written, a configuration, or the error state left. The state after each
of these has the invariant, and so has the state after a transaction of the host and after a reset. -/

namespace Sys2Proof.Machine

/-! ## The networks keep lengths, the rest of `Sys2Proof/Laws/Network.lean` -/

/-- A loop of steps that can fail keeps the length when each step that does not fail does. -/
theorem foldlM_length {β γ : Type} {f : List β → γ → Except CmdError (List β)}
    (hf : ∀ a c b, f a c = .ok b → b.length = a.length) {l : List γ} {a b : List β} (h : l.foldlM f a = .ok b) :
    b.length = a.length := by
  induction l generalizing a with
  | nil => cases h; rfl
  | cons c l ih =>
    rw [List.foldlM_cons, bind_eq_ok] at h
    obtain ⟨a', hc, hl⟩ := h
    rw [ih hl, hf _ _ _ hc]

/-- The shape of both lazy butterflies: two positions written in place unless a bound check fails. -/
theorem checked_set_length {c d : Prop} [Decidable c] [Decidable d] {e : CmdError} {i j x y : Nat} {a b : List Nat}
    (h : (if c then .error e else if d then .ok ((a.set i x).set j y) else .error e) = Except.ok b) :
    b.length = a.length := by
  split at h
  case isTrue => cases h
  case isFalse =>
    split at h
    case isTrue => cases h; simp
    case isFalse => cases h

theorem lazyFwdButterfly_length {KQ S t j : Nat} {a b : List Nat} (h : lazyFwdButterfly KQ S t j a = .ok b) :
    b.length = a.length := checked_set_length h

theorem lazyInvButterfly_length {KQ S t j : Nat} {a b : List Nat} (h : lazyInvButterfly KQ S t j a = .ok b) :
    b.length = a.length := checked_set_length h

theorem lazyFwdStage_length {KQ m t : Nat} {root : Nat → Nat} {a b : List Nat}
    (h : lazyFwdStage KQ root m t a = .ok b) : b.length = a.length :=
  foldlM_length (fun _ _ _ hg => foldlM_length (fun _ _ _ hb => lazyFwdButterfly_length hb) hg) h

theorem lazyInvStage_length {KQ m t : Nat} {iroot : Nat → Nat} {a b : List Nat}
    (h : lazyInvStage KQ iroot m t a = .ok b) : b.length = a.length :=
  foldlM_length (fun _ _ _ hg => foldlM_length (fun _ _ _ hb => lazyInvButterfly_length hb) hg) h

theorem lazyFwdStages_length {q k t m l : Nat} {root : Nat → Nat} {a b : List Nat}
    (h : lazyFwdStages q root k t m l a = .ok b) : b.length = a.length := by
  induction k generalizing t m l a with
  | zero => cases h; rfl
  | succ k ih =>
    rw [lazyFwdStages, bind_eq_ok] at h
    obtain ⟨a', hstage, hrest⟩ := h
    rw [ih hrest, lazyFwdStage_length hstage]

theorem lazyInvStages_length {q k t m l : Nat} {iroot : Nat → Nat} {a b : List Nat}
    (h : lazyInvStages q iroot k t m l a = .ok b) : b.length = a.length := by
  induction k generalizing t m l a with
  | zero => cases h; rfl
  | succ k ih =>
    rw [lazyInvStages, bind_eq_ok] at h
    obtain ⟨a', hstage, hrest⟩ := h
    rw [ih hrest, lazyInvStage_length hstage]

theorem lazyScaleAll_length {q ninv : Nat} {a b : List Nat} (h : lazyScaleAll q ninv a = .ok b) :
    b.length = a.length := by
  induction a generalizing b with
  | nil => cases h; rfl
  | cons v vs ih =>
    simp only [lazyScaleAll, bind_eq_ok] at h
    obtain ⟨w, -, ws, hws, hb⟩ := h
    cases hb
    rw [List.length_cons, ih hws, List.length_cons]

theorem lazyFwd_length {q k : Nat} {root : Nat → Nat} {a b : List Nat} (h : lazyFwd q root k a = .ok b) :
    b.length = a.length := by
  rw [lazyFwd, bind_eq_ok] at h
  obtain ⟨c, hc, hb⟩ := h
  cases hb
  rw [List.length_map, lazyFwdStages_length hc]

theorem lazyInv_length {q ninv k : Nat} {iroot : Nat → Nat} {a b : List Nat}
    (h : lazyInv q ninv iroot k a = .ok b) : b.length = a.length := by
  rw [lazyInv, bind_eq_ok] at h
  obtain ⟨c, hc, hb⟩ := h
  rw [lazyScaleAll_length hb, lazyInvStages_length hc]

/-- `project` gives two coefficients for each pair, and one second component. -/
theorem projectSeq_length {F : Modulus} {ω : Fp2} {b : List Fp2} {r : List Nat × List Nat}
    (h : projectSeq F ω b = .ok r) : r.1.length = 2 * b.length ∧ r.2.length = b.length := by
  simp only [projectSeq, bind_eq_ok] at h
  obtain ⟨wi, -, hr⟩ := h
  cases hr
  simp [two_mul]

/-- A network gives as many elements as it is given, on the sequences a command hands it. -/
def KeepsLength (net : {α : Type} → ElemOps α → (Nat → α) → Nat → List α → List α) : Prop :=
  ∀ {α : Type} (K : ElemOps α) (root : Nat → α) {k : Nat} {f : List α}, 1 ≤ k → f.length = 2 ^ k →
    (net K root k f).length = 2 ^ k

theorem nttCore_keepsLength : KeepsLength nttCore := fun _ _ _ _ _ h => by rw [nttCore_length, h]

theorem inttCore_keepsLength (ninv : Nat) : KeepsLength (inttCore ninv) := fun _ _ _ _ _ h => by
  rw [inttCore_length, h]

theorem nttRec_keepsLength : KeepsLength nttRec := fun _ root _ _ hk h => nttRec_length root hk h

theorem inttRec_keepsLength (inv2 : Nat) : KeepsLength (inttRec inv2) := fun _ iroot _ _ hk h =>
  inttRec_length inv2 iroot hk h

@[simp] theorem State.bufFp_length (s : State) (n : Nat) : (s.bufFp n).length = n := by
  simp [State.bufFp, State.memSeq]

@[simp] theorem State.bufFp2_length (s : State) (n : Nat) : (s.bufFp2 n).length = n := by simp [State.bufFp2]

/-! ## Writes to memories of at most `NMAX` words -/

theorem two_pow_le_nmax {k : Nat} (hk : k ≤ Config.lognMax) : 2 ^ k ≤ Config.nmax :=
  Nat.pow_le_pow_right two_pos hk

theorem State.mem_wf_setMemWord {s : State} (M : MemId) {i : Nat} (w : Word) (hi : i < Config.nmax)
    (h : s.mem.wf = true) : (s.setMemWord M i w).mem.wf = true := by
  obtain ⟨hlo, hhi⟩ := M.wordAddr_lt hi
  exact Memory.wf_storeWord w hlo hhi h

theorem MemId.base_bounds (M : MemId) : memBase ≤ M.base ∧ M.base + 4 * Config.nmax ≤ memEnd := by
  cases M <;> decide

theorem State.mem_wf_setMemSeq {s : State} (M : MemId) {vs : List Nat} (hl : vs.length ≤ Config.nmax)
    (h : s.mem.wf = true) : (s.setMemSeq M vs).mem.wf = true := by
  obtain ⟨hlo, hhi⟩ := M.base_bounds
  exact Memory.wf_storeSeq hlo (by omega) h

theorem State.mem_wf_setBufFp2 {s : State} {b : List Fp2} (hl : b.length ≤ Config.nmax) (h : s.mem.wf = true) :
    (s.setBufFp2 b).mem.wf = true :=
  State.mem_wf_setMemSeq .buf1 (by simpa using hl) (State.mem_wf_setMemSeq .buf0 (by simpa using hl) h)

/-! ## What a command can do -/

/-- `u` is `s` with memory words and result registers written, the memory list in canonical form as long as no length
above NMAX is allowed. -/
structure State.DataWrite (s u : State) : Prop where
  frame : u = { s with mem := u.mem, res0 := u.res0, res1 := u.res1 }
  mem_wf : s.maxLog.toNat ≤ Config.lognMax → s.mem.wf = true → u.mem.wf = true

theorem State.DataWrite.refl (s : State) : s.DataWrite s := ⟨rfl, fun _ h => h⟩

theorem State.dataWrite_setRes (s : State) (r : Nat) : s.DataWrite (s.setRes r) := ⟨rfl, fun _ h => h⟩

theorem State.dataWrite_setResPair (s : State) (r : Fp2) : s.DataWrite (s.setResPair r) := ⟨rfl, fun _ h => h⟩

/-- A length that passes the check leaves the network at least two elements, in both configurations. -/
theorem State.LengthOk.one_le_logL {s : State} {logn : Nat} (h : s.LengthOk logn) :
    1 ≤ s.logL logn ∧ s.logL logn ≤ logn := by
  obtain ⟨hmin, -⟩ := h
  cases hlift : s.lift with
  | true => simp only [State.lognMin, State.logL, hlift, if_true] at hmin ⊢; omega
  | false => simpa [State.lognMin, State.logL, hlift] using hmin

section
variable {s u : State} {logn : Nat} {net : {α : Type} → ElemOps α → (Nat → α) → Nat → List α → List α}

theorem State.fpBinary_dataWrite {f : Modulus → Nat → Nat → Nat} (h : s.fpBinary f = .ok u) : s.DataWrite u := by
  obtain ⟨-, -, rfl⟩ := State.fpBinary_ok.1 h
  exact s.dataWrite_setRes _

theorem State.fpUnary_dataWrite {g : State → Except CmdError Unit} {f : Modulus → Nat → Except CmdError Nat}
    (h : s.fpUnary g f = .ok u) : s.DataWrite u := by
  obtain ⟨-, -, -, r, -, rfl⟩ := State.fpUnary_ok.1 h
  exact s.dataWrite_setRes r

theorem State.fp2Binary_dataWrite {f : Modulus → Fp2 → Fp2 → Fp2} (h : s.fp2Binary f = .ok u) : s.DataWrite u := by
  obtain ⟨-, -, -, rfl⟩ := State.fp2Binary_ok.1 h
  exact s.dataWrite_setResPair _

theorem State.fp2Unary_dataWrite {f : Modulus → Fp2 → Except CmdError Fp2} (h : s.fp2Unary f = .ok u) :
    s.DataWrite u := by
  obtain ⟨-, -, -, r, -, rfl⟩ := State.fp2Unary_ok.1 h
  exact s.dataWrite_setResPair r

theorem State.forward_dataWrite (hnet : KeepsLength net) (h : s.forward logn net = .ok u) : s.DataWrite u := by
  obtain ⟨-, hlen, -, rfl⟩ := State.forward_ok.1 h
  obtain ⟨hone, hle⟩ := hlen.one_le_logL
  unfold State.forwardResult
  split
  case isTrue =>
    refine ⟨rfl, fun hmax => State.mem_wf_setBufFp2 ?_⟩
    rw [hnet _ _ hone (liftSeq_length _ _ _ _)]
    exact two_pow_le_nmax (by omega)
  case isFalse =>
    refine ⟨rfl, fun hmax => State.mem_wf_setMemSeq _ ?_⟩
    rw [hnet _ _ (by omega) (s.bufFp_length _)]
    exact two_pow_le_nmax (by omega)

theorem State.inverse_dataWrite {extra : List Word} (hnet : KeepsLength net)
    (h : s.inverse logn extra net = .ok u) : s.DataWrite u := by
  obtain ⟨-, hlen, -, hres⟩ := State.inverse_ok.1 h
  obtain ⟨hone, hle⟩ := hlen.one_le_logL
  unfold State.inverseResult at hres
  split at hres
  case isTrue hlift =>
    obtain ⟨r, hr, hu⟩ := bind_eq_ok.1 hres
    cases hu
    have hL : s.logL logn + 1 = logn := by rw [State.logL, if_pos hlift] at hone ⊢; omega
    obtain ⟨h1, h2⟩ := projectSeq_length hr
    rw [hnet _ _ hone (s.bufFp2_length _)] at h1 h2
    rw [← pow_succ', hL] at h1
    exact ⟨rfl, fun hmax hm => State.mem_wf_setMemSeq _ (h2 ▸ two_pow_le_nmax (by omega))
      (State.mem_wf_setMemSeq _ (h1 ▸ two_pow_le_nmax (by omega)) hm)⟩
  case isFalse =>
    cases hres
    refine ⟨rfl, fun hmax => State.mem_wf_setMemSeq _ ?_⟩
    rw [hnet _ _ (by omega) (s.bufFp_length _)]
    exact two_pow_le_nmax (by omega)

theorem State.lazyTransform_dataWrite {inputs : List Word} {net : List Nat → Except CmdError (List Nat)}
    (hnet : ∀ {a b}, net a = .ok b → b.length = a.length) (h : s.lazyTransform logn inputs net = .ok u) :
    s.DataWrite u := by
  obtain ⟨-, -, hlen, -, c, hc, rfl⟩ := State.lazyTransform_ok.1 h
  refine ⟨rfl, fun hmax => State.mem_wf_setMemSeq _ ?_⟩
  rw [hnet hc, s.bufFp_length]
  exact two_pow_le_nmax (hlen.2.trans hmax)

end

/-- The states a completion step can leave: error entry, data written, a configuration from the table (SETMOD), or the
error state left (CLRERR). -/
inductive State.Completes (s : State) : State → Prop where
  | error (e : CmdError) : s.Completes (s.enterError e)
  | data (u : State) : s.DataWrite u → s.Completes u.complete
  | config (e : Config.ModEntry) : chooseModulus s.cfgTable s.modq.toNat = .ok e →
      s.Completes (s.setConfig e (needsLift e) (decide (e.q = Config.mersQ))).complete
  | cleared : s.Completes s.leaveError.complete

/-- A command whose result writes data alone completes by it or by error entry. -/
theorem State.completes_of_finish {s t : State} {r : Except CmdError State} (hr : ∀ u, r = .ok u → s.DataWrite u)
    (h : s.finish r = .next t) : s.Completes t := by
  obtain ⟨u, hu, rfl⟩ | ⟨e, -, rfl⟩ := State.finish_cases h
  · exact .data u (hr u hu)
  · exact .error e

theorem execSetmod_completes {s t : State} (h : exec .setmod s = .next t) : s.Completes t := by
  cases hc : chooseModulus s.cfgTable s.modq.toNat with
  | ok e =>
    rw [execSetmod_ok hc] at h
    cases h
    exact .config e hc
  | error c =>
    rw [execSetmod_error hc] at h
    cases h
    exact .error _

theorem execClrerr_eq (s : State) : exec .clrerr s = .next s.leaveError.complete := rfl

/-- Everything a command can do. -/
theorem exec_completes {i : Instr} {s t : State} (h : exec i s = .next t) : s.Completes t := by
  cases i with
  | nop => exact State.completes_of_finish (r := .ok s) (fun u hu => by cases hu; exact .refl s) h
  | setmod => exact execSetmod_completes h
  | clrerr => cases h; exact .cleared
  | fadd | fsub | fmul => exact State.completes_of_finish (fun _ => State.fpBinary_dataWrite) h
  | finv | fsqrt => exact State.completes_of_finish (fun _ => State.fpUnary_dataWrite) h
  | f2add | f2sub | f2mul => exact State.completes_of_finish (fun _ => State.fp2Binary_dataWrite) h
  | f2inv | f2sqrt | f2neg => exact State.completes_of_finish (fun _ => State.fp2Unary_dataWrite) h
  | ntti logn => exact State.completes_of_finish (fun _ => State.forward_dataWrite nttCore_keepsLength) h
  | nttr logn => exact State.completes_of_finish (fun _ => State.forward_dataWrite nttRec_keepsLength) h
  | intti logn => exact State.completes_of_finish (fun _ => State.inverse_dataWrite (inttCore_keepsLength _)) h
  | inttr logn => exact State.completes_of_finish (fun _ => State.inverse_dataWrite (inttRec_keepsLength _)) h
  | nttil logn => exact State.completes_of_finish (fun _ => State.lazyTransform_dataWrite lazyFwd_length) h
  | inttil logn => exact State.completes_of_finish (fun _ => State.lazyTransform_dataWrite lazyInv_length) h

/-- Everything the engine's turn can do. -/
theorem State.engineStep_completes {s t : State} (h : s.engineStep = .next t) :
    t = s ∨ s.busy = true ∧ s.Completes t := by
  obtain ⟨-, he⟩ | ⟨hb, d, -, he⟩ | ⟨hb, i, -, he⟩ := s.engineStep_cases
  · rw [he] at h; cases h; exact .inl rfl
  · rw [he] at h; cases h; exact .inr ⟨hb, .error _⟩
  · rw [he] at h; exact .inr ⟨hb, exec_completes h⟩

/-- While an error is latched only CLRERR is in flight, so the engine's turn leaves the error state. -/
theorem State.Inv.engineStep_of_err {s t : State} (hs : s.Inv) (hb : s.busy = true) (he : s.err = true)
    (h : s.engineStep = .next t) : t = s.leaveError.complete := by
  have hlatch : s.cmdLatch = clrerrWord := (hs.flight hb).2 he
  have hrun : s.engineStep = exec .clrerr s := by
    rw [State.engineStep, if_pos hb, State.runCommand, State.fetchCommand, hlatch]; rfl
  rw [hrun, execClrerr_eq] at h
  cases h; rfl

/-! ## The engine's turn keeps the invariant -/

/-- MAXLOG is never above LOGN_MAX. -/
theorem State.Inv.maxLog_le {s : State} (h : s.Inv) : s.maxLog.toNat ≤ Config.lognMax := by
  cases hv : s.cfgValid with
  | true =>
    obtain ⟨e, ⟨-, -, -, -, hle⟩, -, hmaxLog, -⟩ := h.exists_entry hv
    rwa [hmaxLog]
  | false =>
    obtain ⟨-, hmaxLog, -⟩ := h.config.2 hv
    rw [hmaxLog]; decide

theorem CmdError.code_bounds (e : CmdError) : 1 ≤ e.code.toNat ∧ e.code.toNat ≤ 7 := by
  cases e <;> decide

theorem State.Inv.enterError {s : State} (h : s.Inv) (hd : s.done = false) (e : CmdError) : (s.enterError e).Inv where
  mem := h.mem
  table := h.table
  config := h.config
  latch := ⟨fun he => by simp at he, fun _ => e.code_bounds, by simp [hd]⟩
  flight := fun hb => by simp at hb

/-- A completion without error, where no error is latched, keeps what it leaves in place. -/
theorem State.inv_complete {s : State} (hm : s.mem.wf = true) (ht : s.TableOk) (hc : s.ConfigOk) (he : s.err = false)
    (hl : s.errCode = 0#4 ∧ s.errInfo = 0#32) : s.complete.Inv where
  mem := hm
  table := ht
  config := hc
  latch := ⟨fun _ => hl, by simp [he], by simp [he]⟩
  flight := fun hb => by simp at hb

theorem State.DataWrite.inv_complete {s u : State} (hu : s.DataWrite u) (h : s.Inv) (he : s.err = false) :
    u.complete.Inv := by
  have hm : u.mem.wf = true := hu.mem_wf h.maxLog_le h.mem
  rw [hu.frame]
  exact State.inv_complete hm h.table h.config he (h.latch.1 he)

theorem State.Inv.leaveError_complete {s : State} (h : s.Inv) : s.leaveError.complete.Inv :=
  State.inv_complete (s := s.leaveError) h.mem h.table h.config rfl ⟨rfl, rfl⟩

/-- What SETMOD writes is the configuration of the entry chosen: every field is wide enough for the entry's value. -/
theorem State.TableOk.configOk_setConfig {s : State} {e : Config.ModEntry} (h : s.TableOk)
    (hc : chooseModulus s.cfgTable s.modq.toNat = .ok e) :
    (s.setConfig e (needsLift e) (decide (e.q = Config.mersQ))).ConfigOk := by
  obtain ⟨hmem, hq⟩ := mem_of_chooseModulus hc
  obtain ⟨-, -, -, -, hle⟩ := h e hmem
  have hmax : (BitVec.ofNat 4 e.maxLog).toNat = e.maxLog := by
    unfold Config.lognMax at hle
    rw [BitVec.toNat_ofNat, Nat.mod_eq_of_lt (by omega)]
  refine ⟨fun _ => ⟨e, ?_, hmax, rfl, rfl⟩, fun hv => by simp at hv⟩
  simpa [hq] using hc

/-- Where no error is latched and DONE is clear, as acceptance leaves them, every completion step keeps the invariant. -/
theorem State.Completes.inv {s t : State} (ht : s.Completes t) (h : s.Inv) (hd : s.done = false)
    (he : s.err = false) : t.Inv := by
  cases ht with
  | error e => exact h.enterError hd e
  | data u hu => exact hu.inv_complete h he
  | config e hc => exact State.inv_complete h.mem h.table (h.table.configOk_setConfig hc) he (h.latch.1 he)
  | cleared => exact h.leaveError_complete

theorem State.Inv.engineStep {s t : State} (h : s.Inv) (ht : s.engineStep = .next t) : t.Inv := by
  obtain rfl | ⟨hb, hcomp⟩ := State.engineStep_completes ht
  · exact h
  · cases he : s.err with
    | true => rw [h.engineStep_of_err hb he ht]; exact h.leaveError_complete
    | false => exact hcomp.inv h (h.flight hb).1 he

/-! ## The host's turn and the reset keep the invariant -/

theorem locate_word_lt {addr : Addr} {M : MemId} {i : Nat} (h : locate addr = some (.word M i)) : i < Config.nmax := by
  unfold locate at h
  simp only at h
  split at h
  case isTrue =>
    obtain ⟨r, -, hr⟩ := Option.map_eq_some_iff.1 h
    cases hr
  case isFalse =>
    obtain ⟨M', -, hM⟩ := Option.map_eq_some_iff.1 h
    cases hM
    unfold Config.nmax
    omega

/-- The outside world's own fields are in no clause of the invariant. -/
theorem State.Inv.withWorld {s : State} (h : s.Inv) (agenda : List Event) (response : Option Response) :
    State.Inv { s with agenda := agenda, response := response } :=
  ⟨h.mem, h.table, h.config, h.latch, h.flight⟩

theorem State.Inv.accept {s : State} (h : s.Inv) {w : Word} (hw : s.err = true → w = clrerrWord) :
    (s.accept w).Inv where
  mem := h.mem
  table := h.table
  config := h.config
  latch := ⟨h.latch.1, h.latch.2.1, by simp⟩
  flight := fun _ => ⟨rfl, hw⟩

theorem State.Inv.launch {s : State} (h : s.Inv) (w : Word) : (s.launch w).1.Inv := by
  unfold State.launch
  split
  case isTrue => exact h
  case isFalse hno => exact h.accept fun he => by_contra fun hw => hno ⟨he, hw⟩

theorem State.Inv.writeStatus {s : State} (h : s.Inv) (d : Word) : (s.writeStatus d).Inv where
  mem := h.mem
  table := h.table
  config := h.config
  latch := ⟨h.latch.1, h.latch.2.1, fun ⟨hd, he⟩ => h.latch.2.2 ⟨(Bool.and_eq_true_iff.1 hd).1, he⟩⟩
  flight := fun hb => ⟨by simp [(h.flight hb).1], (h.flight hb).2⟩

/-- A host write to any location keeps the invariant: the configuration and error registers are read-only. -/
theorem State.Inv.writeLoc {s : State} (h : s.Inv) {addr : Addr} {l : Loc} (hl : locate addr = some l) (d : Word) :
    (s.writeLoc l d).1.Inv := by
  cases l with
  | word M i => exact ⟨State.mem_wf_setMemWord M d (locate_word_lt hl) h.mem, h.table, h.config, h.latch, h.flight⟩
  | reg r =>
    cases r with
    | cmd => exact h.launch d
    | status => exact h.writeStatus d
    | ctrl | modq | ninv | liftW0 | liftW1 | a0 | a1 | b0 | b1 => exact ⟨h.mem, h.table, h.config, h.latch, h.flight⟩
    | id | errCode | errInfo | q | maxLog | res0 | res1 => exact h

/-- Everything a host transaction that completes can do to the state: nothing, or a write to a location. -/
theorem State.hostTxn_cases {s s' : State} {x : Txn} {r : Response} (h : s.hostTxn x = some (s', r)) :
    s' = s ∨ ∃ addr l d, locate addr = some l ∧ s' = (s.writeLoc l d).1 := by
  cases x with
  | read addr =>
    rw [State.hostTxn] at h
    obtain ⟨he, -⟩ | ⟨he, -⟩ | ⟨l, -, he⟩ := s.hostRead_cases addr
    · rw [he] at h; cases h; exact .inl rfl
    · rw [he] at h; cases h
    · rw [he] at h; cases h; exact .inl rfl
  | write addr d =>
    rw [State.hostTxn] at h
    obtain he | ⟨he, -⟩ | ⟨l, hl, -, -, he⟩ := s.hostWrite_cases addr d
    · rw [he] at h; cases h; exact .inl rfl
    · rw [he] at h; cases h
    · rw [he, Option.some.injEq] at h; exact .inr ⟨addr, l, d, hl, by rw [h]⟩

theorem State.Inv.hostTxn {s s' : State} {x : Txn} {r : Response} (h : s.Inv) (hx : s.hostTxn x = some (s', r)) :
    s'.Inv := by
  obtain rfl | ⟨addr, l, d, hl, rfl⟩ := State.hostTxn_cases hx
  · exact h
  · exact h.writeLoc hl d

/-- A reset leaves the invariant whatever the state was, as long as the table meets its constraints. -/
theorem State.TableOk.inv_resetEvent {s : State} (h : s.TableOk) : s.resetEvent.Inv where
  mem := rfl
  table := h
  config := ⟨fun hv => by simp [State.reset] at hv, fun _ => ⟨rfl, rfl, rfl, rfl⟩⟩
  latch := ⟨fun _ => ⟨rfl, rfl⟩, fun he => by simp [State.reset] at he, by simp [State.reset]⟩
  flight := fun hb => by simp [State.reset] at hb

/-- The invariant is inductive. -/
theorem State.Inv.step {s t : State} (h : s.Inv) (ht : Machine.step s = .next t) : t.Inv := by
  obtain ⟨-, he⟩ | ⟨rest, -, he⟩ | ⟨rest, -, he⟩ | ⟨x, rest, -, -, he⟩ | ⟨x, rest, s', r, -, hx, he⟩ := step_cases s
  case inl => exact h.engineStep (he ▸ ht)
  case inr.inl => exact (h.withWorld rest s.response).engineStep (he ▸ ht)
  case inr.inr.inl => rw [he] at ht; cases ht; exact State.TableOk.inv_resetEvent h.table
  case inr.inr.inr.inl => exact h.engineStep (he ▸ ht)
  case inr.inr.inr.inr => rw [he] at ht; cases ht; exact (h.hostTxn hx).withWorld rest (some r)

/-! ## No step changes the table -/

theorem State.Completes.cfgTable {s t : State} (h : s.Completes t) : t.cfgTable = s.cfgTable := by
  cases h with
  | error | config | cleared => rfl
  | data u hu => rw [State.complete_cfgTable, hu.frame]

theorem State.engineStep_cfgTable {s t : State} (h : s.engineStep = .next t) : t.cfgTable = s.cfgTable := by
  obtain rfl | ⟨-, hcomp⟩ := State.engineStep_completes h
  · rfl
  · exact hcomp.cfgTable

theorem State.launch_cfgTable (s : State) (w : Word) : (s.launch w).1.cfgTable = s.cfgTable := by
  unfold State.launch
  split <;> rfl

theorem State.writeLoc_cfgTable (s : State) (l : Loc) (d : Word) : (s.writeLoc l d).1.cfgTable = s.cfgTable := by
  cases l with
  | word M i => rfl
  | reg r =>
    cases r with
    | cmd => exact s.launch_cfgTable d
    | _ => rfl

theorem State.hostTxn_cfgTable {s s' : State} {x : Txn} {r : Response} (h : s.hostTxn x = some (s', r)) :
    s'.cfgTable = s.cfgTable := by
  obtain rfl | ⟨addr, l, d, -, rfl⟩ := State.hostTxn_cases h
  · rfl
  · exact s.writeLoc_cfgTable l d

theorem step_cfgTable {s t : State} (ht : step s = .next t) : t.cfgTable = s.cfgTable := by
  obtain ⟨-, he⟩ | ⟨rest, -, he⟩ | ⟨rest, -, he⟩ | ⟨x, rest, -, -, he⟩ | ⟨x, rest, s', r, -, hx, he⟩ := step_cases s
  case inl => exact State.engineStep_cfgTable (he ▸ ht)
  case inr.inl => exact State.engineStep_cfgTable (s := { s with agenda := rest }) (he ▸ ht)
  case inr.inr.inl => rw [he] at ht; cases ht; rfl
  case inr.inr.inr.inl => exact State.engineStep_cfgTable (he ▸ ht)
  case inr.inr.inr.inr => rw [he] at ht; cases ht; exact (State.hostTxn_cfgTable hx :)

/-- Settles O10: the invariant is inductive as it stands, and every part of a step leaves the table. -/
theorem everyStepKeepsTheInvariant : Obligations.EveryStepKeepsTheInvariant :=
  ⟨fun _ _ h ht => h.step ht, fun _ _ ht => step_cfgTable ht⟩

end Sys2Proof.Machine
end

section
/-! What a completed command writes is canonical (`10_state.md` R41). -/

namespace Sys2Proof.Machine

/-! ## The functions of the two fields -/

section
variable {F : Modulus} {a e fuel r : Nat} {x : Fp2}

theorem Modulus.Ok.one_lt (hF : F.Ok) : 1 < F.q := hF.prime.one_lt

theorem Modulus.Ok.inv2_lt (hF : F.Ok) : F.inv2 < F.q := by
  have := hF.one_lt
  unfold Modulus.inv2
  omega

theorem fpowLoop_lt {b : Nat} (hF : F.Ok) (hr : r < F.q) (hb : b < F.q) : fpowLoop F fuel r b e < F.q := by
  induction fuel generalizing r b e with
  | zero => exact hr
  | succ fuel ih =>
    rw [fpowLoop]
    split
    case isTrue => exact hr
    case isFalse =>
      refine ih ?_ (fmul_lt hF.mers hb hb)
      split
      case isTrue => exact fmul_lt hF.mers hr hb
      case isFalse => exact hr

theorem fpow_lt (hF : F.Ok) (ha : a < F.q) : fpow F a e < F.q := fpowLoop_lt hF hF.one_lt ha

theorem finv_lt (hF : F.Ok) (h : finv F a = .ok r) : r < F.q := by
  have hq : (0 : ℤ) < F.q := by exact_mod_cast hF.prime.pos
  unfold finv at h
  split at h
  case isTrue => cases h
  case isFalse =>
    cases h
    exact (Int.toNat_lt (Int.emod_nonneg _ hq.ne')).2 (Int.emod_lt_of_pos _ hq)

theorem fsqrt_lt (hF : F.Ok) (ha : a < F.q) (h : fsqrt F a = .ok r) : r < F.q := by
  unfold fsqrt at h
  simp only at h
  split at h
  case isTrue => cases h
  case isFalse => cases h; exact fpow_lt hF ha

theorem f2norm_lt (hF : F.Ok) (hx : Fp2.Canon F x) : f2norm F x < F.q :=
  fadd_lt (fmul_lt hF.mers hx.1 hx.1) (fmul_lt hF.mers hx.2 hx.2)

theorem f2inv_canon {y : Fp2} (hF : F.Ok) (hx : Fp2.Canon F x) (h : f2inv F x = .ok y) : Fp2.Canon F y := by
  unfold f2inv at h
  split at h
  case isTrue => cases h
  case isFalse =>
    obtain ⟨ni, hni, hy⟩ := bind_eq_ok.1 h
    cases hy
    have hlt := finv_lt hF hni
    exact ⟨fmul_lt hF.mers hx.1 hlt, fneg_lt (fmul_lt hF.mers hx.2 hlt)⟩

theorem f2sqrtScalar_canon (hF : F.Ok) (ha : a < F.q) : Fp2.Canon F (f2sqrtScalar F a) := by
  unfold f2sqrtScalar
  simp only
  split
  case isTrue => exact ⟨fpow_lt hF ha, hF.prime.pos⟩
  case isFalse => exact ⟨hF.prime.pos, fpow_lt hF ha⟩

theorem f2sqrtImag_lt {sD : Nat} (hF : F.Ok) (ha : a < F.q) (hs : sD < F.q) : f2sqrtImag F a sD < F.q := by
  unfold f2sqrtImag
  simp only
  split
  case isTrue => exact fpow_lt hF (fmul_lt hF.mers (fsub_lt (fneg_lt ha) hs) hF.inv2_lt)
  case isFalse => exact fpow_lt hF (fmul_lt hF.mers (fadd_lt (fneg_lt ha) hs) hF.inv2_lt)

theorem f2sqrt_canon {y : Fp2} (hF : F.Ok) (hx : Fp2.Canon F x) (h : f2sqrt F x = .ok y) : Fp2.Canon F y := by
  unfold f2sqrt at h
  split at h
  case isTrue => cases h; exact f2sqrtScalar_canon hF hx.1
  case isFalse =>
    simp only at h
    split at h
    case isTrue => cases h
    case isFalse =>
      obtain ⟨bi, hbi, hy⟩ := bind_eq_ok.1 h
      cases hy
      exact ⟨fmul_lt hF.mers (fmul_lt hF.mers hx.2 hF.inv2_lt) (finv_lt hF hbi),
        f2sqrtImag_lt hF hx.1 (fpow_lt hF (f2norm_lt hF hx))⟩

end

/-! ## Networks -/

/-- The operations of `K` lead from elements with `P` to elements with `P`; scalars are below `q`. -/
structure ElemOps.Closed {α : Type} (K : ElemOps α) (q : Nat) (P : α → Prop) : Prop where
  zero : P K.zero
  add : ∀ {x y}, P x → P y → P (K.add x y)
  sub : ∀ {x y}, P x → P y → P (K.sub x y)
  mul : ∀ {x y}, P x → P y → P (K.mul x y)
  scale : ∀ {x c}, P x → c < q → P (K.scale x c)

theorem fpOps_closed {F : Modulus} (hF : F.Ok) : (fpOps F).Closed F.q (fun v => v < F.q) where
  zero := hF.prime.pos
  add := fadd_lt
  sub := fsub_lt
  mul := fmul_lt hF.mers
  scale := fmul_lt hF.mers

theorem fp2Ops_closed {F : Modulus} (hF : F.Ok) : (fp2Ops F).Closed F.q (Fp2.Canon F) where
  zero := ⟨hF.prime.pos, hF.prime.pos⟩
  add := f2add_canon
  sub := f2sub_canon
  mul := f2mul_canon hF.mers
  scale := fun hx hc => ⟨fmul_lt hF.mers hx.1 hc, fmul_lt hF.mers hx.2 hc⟩

section
variable {α : Type} {K : ElemOps α} {q : Nat} {P : α → Prop} {S : α} {root : Nat → α} {a f g : List α}

theorem forall_mem_set {v : α} {j : Nat} (ha : ∀ x ∈ a, P x) (hv : P v) : ∀ x ∈ a.set j v, P x := fun x hx =>
  (List.mem_or_eq_of_mem_set hx).elim (ha x) fun h => h ▸ hv

theorem forall_mem_getD {d : α} (hd : P d) (ha : ∀ x ∈ a, P x) (j : Nat) : P (a.getD j d) := by
  rw [List.getD_eq_getElem?_getD]
  cases h : a[j]? with
  | none => exact hd
  | some x => exact ha x (List.mem_of_getElem? h)

/-- A loop over steps that keep the elements in `P` keeps them there. -/
theorem foldl_closed {γ : Type} {step : List α → γ → List α} {l : List γ}
    (hstep : ∀ c ∈ l, ∀ b, (∀ x ∈ b, P x) → ∀ x ∈ step b c, P x) (ha : ∀ x ∈ a, P x) : ∀ x ∈ l.foldl step a, P x :=
  List.foldlRecOn (motive := fun b => ∀ x ∈ b, P x) l step ha fun b hb c hc => hstep c hc b hb

theorem fwdButterfly_closed (hK : K.Closed q P) (hS : P S) (t j : Nat) (ha : ∀ x ∈ a, P x) :
    ∀ x ∈ fwdButterfly K S t j a, P x := by
  have hU := forall_mem_getD hK.zero ha j
  have hV := hK.mul (forall_mem_getD hK.zero ha (j + t)) hS
  exact forall_mem_set (forall_mem_set ha (hK.add hU hV)) (hK.sub hU hV)

theorem invButterfly_closed (hK : K.Closed q P) (hS : P S) (t j : Nat) (ha : ∀ x ∈ a, P x) :
    ∀ x ∈ invButterfly K S t j a, P x := by
  have hU := forall_mem_getD hK.zero ha j
  have hV := forall_mem_getD hK.zero ha (j + t)
  exact forall_mem_set (forall_mem_set ha (hK.add hU hV)) (hK.mul (hK.sub hU hV) hS)

theorem fwdStage_closed (hK : K.Closed q P) {m t : Nat} (hroot : ∀ i < m, P (root (m + i))) (ha : ∀ x ∈ a, P x) :
    ∀ x ∈ fwdStage K root m t a, P x :=
  foldl_closed (fun i hi _ hb => foldl_closed (fun _ _ _ hc =>
    fwdButterfly_closed hK (hroot i (List.mem_range.1 hi)) t _ hc) hb) ha

theorem invStage_closed (hK : K.Closed q P) {m t : Nat} (hroot : ∀ i < m, P (root (m + i))) (ha : ∀ x ∈ a, P x) :
    ∀ x ∈ invStage K root m t a, P x :=
  foldl_closed (fun i hi _ hb => foldl_closed (fun _ _ _ hc =>
    invButterfly_closed hK (hroot i (List.mem_range.1 hi)) t _ hc) hb) ha

theorem fwdStages_closed (hK : K.Closed q P) {k t m : Nat} (hm : 1 ≤ m)
    (hroot : ∀ j, 1 ≤ j → j < m * 2 ^ k → P (root j)) (ha : ∀ x ∈ a, P x) : ∀ x ∈ fwdStages K root k t m a, P x := by
  induction k generalizing t m a with
  | zero => exact ha
  | succ k ih =>
    have hnext : 2 * m * 2 ^ k = m * 2 ^ (k + 1) := by ring
    have hle : 2 * m ≤ 2 * m * 2 ^ k := Nat.le_mul_of_pos_right _ (by positivity)
    exact ih (by omega) (hnext ▸ hroot) (fwdStage_closed hK (fun i hi => hroot _ (by omega) (by omega)) ha)

theorem invStages_closed (hK : K.Closed q P) {k t : Nat} (hroot : ∀ j, 1 ≤ j → j < 2 ^ k → P (root j))
    (ha : ∀ x ∈ a, P x) : ∀ x ∈ invStages K root k t (2 ^ k) a, P x := by
  induction k generalizing t a with
  | zero => exact ha
  | succ k ih =>
    have hpos : 0 < 2 ^ k := by positivity
    have htwo : 2 ^ (k + 1) = 2 * 2 ^ k := pow_succ' 2 k
    have hhalf : 2 ^ (k + 1) / 2 = 2 ^ k := by omega
    rw [invStages, hhalf]
    exact ih (fun j h1 h2 => hroot j h1 (by omega))
      (invStage_closed hK (fun i hi => hroot _ (by omega) (by omega)) ha)

theorem evens_closed (hf : ∀ x ∈ f, P x) : ∀ x ∈ evens f, P x := by
  induction f using evens.induct with
  | case1 => exact hf
  | case2 => exact hf
  | case3 x y xs ih =>
    simp only [List.forall_mem_cons] at hf
    rw [evens, List.forall_mem_cons]
    exact ⟨hf.1, ih hf.2.2⟩

theorem odds_closed (hf : ∀ x ∈ f, P x) : ∀ x ∈ odds f, P x := by
  induction f using odds.induct with
  | case1 => exact hf
  | case2 => simp [odds]
  | case3 x y xs ih =>
    simp only [List.forall_mem_cons] at hf
    rw [odds, List.forall_mem_cons]
    exact ⟨hf.2.1, ih hf.2.2⟩

theorem mergeSeq_closed (hf : ∀ x ∈ f, P x) (hg : ∀ x ∈ g, P x) : ∀ x ∈ mergeSeq f g, P x := by
  induction f, g using mergeSeq.induct with
  | case1 x xs y ys ih =>
    rw [List.forall_mem_cons] at hf hg
    rw [mergeSeq, List.forall_mem_cons, List.forall_mem_cons]
    exact ⟨hf.1, hg.1, ih hf.2 hg.2⟩
  | case2 => simp [mergeSeq]

theorem mergeNttFrom_closed (hK : K.Closed q P) {h i : Nat} (hroot : ∀ j, i ≤ j → j < i + f.length → P (root (h + j)))
    (hf : ∀ x ∈ f, P x) (hg : ∀ x ∈ g, P x) : ∀ x ∈ mergeNttFrom K root h i f g, P x := by
  induction f generalizing g i with
  | nil => simp [mergeNttFrom]
  | cons x xs ih =>
    cases g with
    | nil => simp [mergeNttFrom]
    | cons y ys =>
      rw [List.length_cons] at hroot
      rw [List.forall_mem_cons] at hf hg
      have hV := hK.mul hg.1 (hroot i le_rfl (by omega))
      simp only [mergeNttFrom, List.forall_mem_cons]
      exact ⟨hK.add hf.1 hV, hK.sub hf.1 hV, ih (fun j h1 h2 => hroot j (by omega) (by omega)) hf.2 hg.2⟩

theorem splitNttFrom_closed (hK : K.Closed q P) {inv2 h i : Nat} (hinv : inv2 < q)
    (hroot : ∀ j, i ≤ j → j < i + f.length / 2 → P (root (h + j))) (hf : ∀ x ∈ f, P x) :
    (∀ x ∈ (splitNttFrom inv2 K root h i f).1, P x) ∧ ∀ x ∈ (splitNttFrom inv2 K root h i f).2, P x := by
  induction f using evens.induct generalizing i with
  | case1 => simp [splitNttFrom]
  | case2 => simp [splitNttFrom]
  | case3 x y xs ih =>
    simp only [List.length_cons] at hroot
    simp only [List.forall_mem_cons] at hf
    obtain ⟨hx, hy, hxs⟩ := hf
    obtain ⟨h1, h2⟩ := ih (i := i + 1) (fun j hj hj' => hroot j (by omega) (by omega)) hxs
    simp only [splitNttFrom, List.forall_mem_cons]
    exact ⟨⟨hK.scale (hK.add hx hy) hinv, h1⟩,
      hK.mul (hK.scale (hK.sub hx hy) hinv) (hroot i le_rfl (by omega)), h2⟩

theorem nttCore_closed (hK : K.Closed q P) {k : Nat} (hroot : ∀ j, 1 ≤ j → j < 2 ^ k → P (root j))
    (ha : ∀ x ∈ a, P x) : ∀ x ∈ nttCore K root k a, P x :=
  fwdStages_closed hK le_rfl (by simpa using hroot) ha

theorem inttCore_closed (hK : K.Closed q P) {ninv k : Nat} (hninv : ninv < q)
    (hroot : ∀ j, 1 ≤ j → j < 2 ^ k → P (root j)) (ha : ∀ x ∈ a, P x) : ∀ x ∈ inttCore ninv K root k a, P x :=
  List.forall_mem_map.2 fun x hx => hK.scale (invStages_closed hK hroot ha x hx) hninv

theorem nttRec_closed (hK : K.Closed q P) {k : Nat} (hk : 1 ≤ k) (hl : f.length = 2 ^ k)
    (hroot : ∀ j, 1 ≤ j → j < 2 ^ k → P (root j)) (hf : ∀ x ∈ f, P x) : ∀ x ∈ nttRec K root k f, P x := by
  induction k, f using nttRec.induct K root with
  | case1 => omega
  | case2 f =>
    have hU := forall_mem_getD hK.zero hf 0
    have hV := hK.mul (forall_mem_getD hK.zero hf 1) (hroot 1 le_rfl (by norm_num))
    simpa [nttRec] using ⟨hK.add hU hV, hK.sub hU hV⟩
  | case3 k f ihE ihO =>
    have htwo : 2 ^ (k + 2) = 2 ^ (k + 1) + 2 ^ (k + 1) := by rw [pow_succ]; omega
    have he : (splitSeq f).1.length = 2 ^ (k + 1) := (evens_length f).trans (by omega)
    have ho : (splitSeq f).2.length = 2 ^ (k + 1) := (odds_length f).trans (by omega)
    have hroot' : ∀ j, 1 ≤ j → j < 2 ^ (k + 1) → P (root j) := fun j h1 h2 => hroot j h1 (by omega)
    have hlen := nttRec_length (K := K) root (by omega) he
    have hpos : 0 < 2 ^ (k + 1) := by positivity
    exact mergeNttFrom_closed hK (fun j _ hj => hroot _ (by omega) (by omega))
      (ihE (by omega) he hroot' (evens_closed hf)) (ihO (by omega) ho hroot' (odds_closed hf))

theorem inttRec_closed (hK : K.Closed q P) {inv2 k : Nat} (hinv : inv2 < q) (hk : 1 ≤ k) (hl : f.length = 2 ^ k)
    (hroot : ∀ j, 1 ≤ j → j < 2 ^ k → P (root j)) (hf : ∀ x ∈ f, P x) : ∀ x ∈ inttRec inv2 K root k f, P x := by
  induction k, f using inttRec.induct inv2 K root with
  | case1 => omega
  | case2 f =>
    have hU := forall_mem_getD hK.zero hf 0
    have hV := forall_mem_getD hK.zero hf 1
    simpa [inttRec] using ⟨hK.scale (hK.add hU hV) hinv,
      hK.mul (hK.scale (hK.sub hU hV) hinv) (hroot 1 le_rfl (by norm_num))⟩
  | case3 k f ihE ihO =>
    have htwo : 2 ^ (k + 2) = 2 ^ (k + 1) + 2 ^ (k + 1) := by rw [pow_succ]; omega
    have hpos : 0 < 2 ^ (k + 1) := by positivity
    obtain ⟨hlE, hlO⟩ := splitNttFrom_length (K := K) inv2 root (f.length / 2) 0 f
    obtain ⟨hE, hO⟩ := splitNttFrom_closed hK (h := f.length / 2) (i := 0) hinv
      (fun j _ hj => hroot _ (by omega) (by omega)) hf
    have hroot' : ∀ j, 1 ≤ j → j < 2 ^ (k + 1) → P (root j) := fun j h1 h2 => hroot j h1 (by omega)
    exact mergeSeq_closed (ihE (by omega) (hlE.trans (by omega)) hroot' hE)
      (ihO (by omega) (hlO.trans (by omega)) hroot' hO)

end

/-! ## The lift boundary and the lazy final pass -/

section
variable {F : Modulus} {ω : Fp2}

theorem one_canon (hF : F.Ok) : Fp2.Canon F (1, 0) := ⟨hF.one_lt, hF.prime.pos⟩

theorem liftLoop_canon (hF : F.Ok) (hω : Fp2.Canon F ω) {L r i : Nat} {c : List Nat} {p : Fp2} (hc : ∀ v ∈ c, v < F.q)
    (hp : Fp2.Canon F p) : ∀ x ∈ liftLoop F ω L c r i p, Fp2.Canon F x := by
  induction r generalizing i p with
  | zero => simp [liftLoop]
  | succ r ih =>
    have hcoeff := forall_mem_getD (P := fun v => v < F.q) (d := 0) hF.prime.pos hc
    rw [liftLoop, List.forall_mem_cons]
    exact ⟨f2mul_canon hF.mers ⟨hcoeff i, fneg_lt (hcoeff (i + L))⟩ hp, ih (f2mul_canon hF.mers hp hω)⟩

theorem liftSeq_canon (hF : F.Ok) (hω : Fp2.Canon F ω) {L : Nat} {c : List Nat} (hc : ∀ v ∈ c, v < F.q) :
    ∀ x ∈ liftSeq F ω L c, Fp2.Canon F x := liftLoop_canon hF hω hc (one_canon hF)

theorem projectLoop_canon (hF : F.Ok) {wi p : Fp2} {b : List Fp2} (hwi : Fp2.Canon F wi) (hp : Fp2.Canon F p)
    (hb : ∀ x ∈ b, Fp2.Canon F x) : ∀ x ∈ projectLoop F wi p b, Fp2.Canon F x := by
  induction b generalizing p with
  | nil => simp [projectLoop]
  | cons x xs ih =>
    rw [List.forall_mem_cons] at hb
    rw [projectLoop, List.forall_mem_cons]
    exact ⟨f2mul_canon hF.mers hb.1 hp, ih (f2mul_canon hF.mers hp hwi) hb.2⟩

theorem projectSeq_lt (hF : F.Ok) (hω : Fp2.Canon F ω) {b : List Fp2} {r : List Nat × List Nat}
    (hb : ∀ x ∈ b, Fp2.Canon F x) (h : projectSeq F ω b = .ok r) : (∀ v ∈ r.1, v < F.q) ∧ ∀ v ∈ r.2, v < F.q := by
  obtain ⟨wi, hwi, hr⟩ := bind_eq_ok.1 h
  cases hr
  have hd := projectLoop_canon hF (f2inv_canon hF hω hwi) (one_canon hF) hb
  rw [List.forall_mem_append, List.forall_mem_map, List.forall_mem_map, List.forall_mem_map]
  exact ⟨⟨fun x hx => (hd x hx).1, fun x hx => fneg_lt (hd x hx).2⟩, fun x hx => (hd x hx).2⟩

end

section
variable {q ninv k : Nat} {root : Nat → Nat} {a b : List Nat}

theorem lazyFwd_lt (hq : 0 < q) (h : lazyFwd q root k a = .ok b) : ∀ v ∈ b, v < q := by
  obtain ⟨c, -, hb⟩ := bind_eq_ok.1 h
  cases hb
  exact List.forall_mem_map.2 fun _ _ => Nat.mod_lt _ hq

theorem lazyScaleAll_lt (hq : 0 < q) (h : lazyScaleAll q ninv a = .ok b) : ∀ v ∈ b, v < q := by
  induction a generalizing b with
  | nil => cases h; simp
  | cons v vs ih =>
    obtain ⟨w, hw, hrest⟩ := bind_eq_ok.1 h
    obtain ⟨ws, hws, hb⟩ := bind_eq_ok.1 hrest
    cases hb
    rw [List.forall_mem_cons]
    refine ⟨?_, ih hws⟩
    unfold lazyScale at hw
    split at hw
    case isTrue => cases hw; exact Nat.mod_lt _ hq
    case isFalse => cases hw

theorem lazyInv_lt (hq : 0 < q) (h : lazyInv q ninv root k a = .ok b) : ∀ v ∈ b, v < q := by
  obtain ⟨c, -, hb⟩ := bind_eq_ok.1 h
  exact lazyScaleAll_lt hq hb

end

/-! ## Canonical words of the memories -/

theorem State.canonical_append {s : State} {vs ws : List Word} :
    s.canonical (vs ++ ws) = true ↔ s.canonical vs = true ∧ s.canonical ws = true := by
  simp only [State.canonical_iff, List.forall_mem_append]

theorem State.memNat_lt {s : State} {M : MemId} {lo n j : Nat} (h : s.canonical (s.memWords M lo n) = true) (hlo : lo ≤ j)
    (hj : j < lo + n) : s.memNat M j < s.q.toNat := by
  have hmem : s.memWord M j ∈ s.memWords M lo n :=
    List.mem_map.2 ⟨j - lo, List.mem_range.2 (by omega), by rw [Nat.add_sub_cancel' hlo]⟩
  exact State.canonical_iff.1 h _ hmem

/-- The table entries a network of length 2^k reads are those of its input set. -/
theorem State.tableEntry_lt {s : State} {M : MemId} {k : Nat} (h : s.canonical (s.memWords M 1 (2 ^ k - 1)) = true) :
    ∀ j, 1 ≤ j → j < 2 ^ k → s.memNat M j < s.q.toNat := fun _ h1 h2 => State.memNat_lt h h1 (by omega)

theorem State.bufFp_lt {s : State} {n : Nat} (h : s.canonical (s.memWords .buf0 0 n) = true) :
    ∀ v ∈ s.bufFp n, v < s.q.toNat :=
  List.forall_mem_map.2 fun i hi => State.memNat_lt h (Nat.zero_le i) (by simpa using hi)

theorem State.bufFp2_canon {s : State} {n : Nat} (h0 : s.canonical (s.memWords .buf0 0 n) = true)
    (h1 : s.canonical (s.memWords .buf1 0 n) = true) : ∀ x ∈ s.bufFp2 n, Fp2.Canon s.modulus x :=
  List.forall_mem_map.2 fun i hi =>
    ⟨State.memNat_lt h0 (Nat.zero_le i) (by simpa using hi), State.memNat_lt h1 (Nat.zero_le i) (by simpa using hi)⟩

theorem State.wordsBelowQ_mono {s : State} {M : MemId} {lo n m : Nat} (hnm : n ≤ m) (h : s.wordsBelowQ M lo m) :
    s.wordsBelowQ M lo n := fun i hlo hi => h i hlo (hi.trans_le hnm)

theorem toNat_ofNat_lt {v q : Nat} (h : v < q) : (BitVec.ofNat 32 v).toNat < q := by
  rw [BitVec.toNat_ofNat]
  exact (Nat.mod_le _ _).trans_lt h

/-- Canonical values written to a memory are canonical words there. -/
theorem State.wordsBelowQ_setMemSeq {s : State} {M : MemId} {vs : List Nat} {n : Nat} (hn : vs.length = n)
    (h : ∀ v ∈ vs, v < s.q.toNat) : (s.setMemSeq M vs).wordsBelowQ M 0 n := fun i _ hi => by
  rw [State.memWord_setMemSeq_same s M vs i (hn ▸ hi)]
  exact toNat_ofNat_lt (h _ (List.getElem_mem _))

/-- A write to `BUF1` leaves the words of `BUF0`. -/
theorem State.wordsBelowQ_buf0_setMemSeq_buf1 {s : State} {vs : List Nat} {n : Nat} (hn : n ≤ Config.nmax)
    (h : s.wordsBelowQ .buf0 0 n) : (s.setMemSeq .buf1 vs).wordsBelowQ .buf0 0 n := fun i hlo hi => by
  have hbelow : MemId.buf0.wordAddr i + 4 ≤ MemId.buf1.base := by
    simp only [MemId.wordAddr, MemId.base, Config.nmax] at *
    omega
  rw [State.memWord, State.wordAt_setMemSeq_other s .buf1 vs _ (.inl hbelow)]
  exact h i hlo hi

/-! ## The operand forms -/

section
variable {s u : State} {k : Nat} {net : {α : Type} → ElemOps α → (Nat → α) → Nat → List α → List α}

theorem State.fpBinary_canonical {f : Modulus → Nat → Nat → Nat} (hs : s.Inv) (h : s.fpBinary f = .ok u)
    (hf : ∀ {F : Modulus} {a b : Nat}, F.Ok → a < F.q → b < F.q → f F a b < F.q) :
    u.res0.toNat < u.q.toNat := by
  obtain ⟨hv, hcanon, rfl⟩ := State.fpBinary_ok.1 h
  rw [State.canonical_iff] at hcanon
  exact toNat_ofNat_lt (hf (hs.modulus_ok hv) (hcanon s.a0 (by simp)) (hcanon s.b0 (by simp)))

theorem State.fpUnary_canonical {g : State → Except CmdError Unit} {f : Modulus → Nat → Except CmdError Nat} (hs : s.Inv)
    (h : s.fpUnary g f = .ok u) (hf : ∀ {F : Modulus} {a r : Nat}, F.Ok → a < F.q → f F a = .ok r → r < F.q) :
    u.res0.toNat < u.q.toNat := by
  obtain ⟨hv, -, hcanon, r, hr, rfl⟩ := State.fpUnary_ok.1 h
  rw [State.canonical_iff] at hcanon
  exact toNat_ofNat_lt (hf (hs.modulus_ok hv) (hcanon s.a0 (by simp)) hr)

theorem State.fp2Binary_canonical {f : Modulus → Fp2 → Fp2 → Fp2} (hs : s.Inv) (h : s.fp2Binary f = .ok u)
    (hf : ∀ {F : Modulus} {x y : Fp2}, F.Ok → Fp2.Canon F x → Fp2.Canon F y → Fp2.Canon F (f F x y)) :
    u.res0.toNat < u.q.toNat ∧ u.res1.toNat < u.q.toNat := by
  obtain ⟨hv, -, hcanon, rfl⟩ := State.fp2Binary_ok.1 h
  rw [State.canonical_iff] at hcanon
  obtain ⟨h0, h1⟩ := hf (hs.modulus_ok hv) (x := s.opX) (y := s.opY) ⟨hcanon s.a0 (by simp), hcanon s.a1 (by simp)⟩
    ⟨hcanon s.b0 (by simp), hcanon s.b1 (by simp)⟩
  exact ⟨toNat_ofNat_lt h0, toNat_ofNat_lt h1⟩

theorem State.fp2Unary_canonical {f : Modulus → Fp2 → Except CmdError Fp2} (hs : s.Inv) (h : s.fp2Unary f = .ok u)
    (hf : ∀ {F : Modulus} {x y : Fp2}, F.Ok → Fp2.Canon F x → f F x = .ok y → Fp2.Canon F y) :
    u.res0.toNat < u.q.toNat ∧ u.res1.toNat < u.q.toNat := by
  obtain ⟨hv, -, hcanon, r, hr, rfl⟩ := State.fp2Unary_ok.1 h
  rw [State.canonical_iff] at hcanon
  obtain ⟨h0, h1⟩ := hf (hs.modulus_ok hv) (x := s.opX) ⟨hcanon s.a0 (by simp), hcanon s.a1 (by simp)⟩ hr
  exact ⟨toNat_ofNat_lt h0, toNat_ofNat_lt h1⟩

/-- A network leads from elements with `P`, under table entries with `P`, to elements with `P`, on the sequences a command
hands it. -/
def NetClosed (q : Nat) (net : {α : Type} → ElemOps α → (Nat → α) → Nat → List α → List α) : Prop :=
  ∀ ⦃α : Type⦄ ⦃K : ElemOps α⦄ ⦃P : α → Prop⦄ ⦃root : Nat → α⦄ ⦃k : Nat⦄ ⦃f : List α⦄, K.Closed q P → 1 ≤ k →
    f.length = 2 ^ k → (∀ j, 1 ≤ j → j < 2 ^ k → P (root j)) → (∀ x ∈ f, P x) → ∀ x ∈ net K root k f, P x

theorem nttCore_netClosed (q : Nat) : NetClosed q nttCore := fun _ _ _ _ _ _ hK _ _ hroot hf => nttCore_closed hK hroot hf

theorem nttRec_netClosed (q : Nat) : NetClosed q nttRec := fun _ _ _ _ _ _ hK => nttRec_closed hK

theorem inttCore_netClosed {q ninv : Nat} (h : ninv < q) : NetClosed q (inttCore ninv) := fun _ _ _ _ _ _ hK _ _ hroot hf =>
  inttCore_closed hK h hroot hf

theorem inttRec_netClosed {q inv2 : Nat} (h : inv2 < q) : NetClosed q (inttRec inv2) := fun _ _ _ _ _ _ hK =>
  inttRec_closed hK h

/-- The buffers after a transform of length 2^k, with canonical words in the first `n` words of `BUF0` in the lifted
configuration. -/
structure State.CanonicalBuffers (s u : State) (k n : Nat) : Prop where
  direct : s.lift = false → u.wordsBelowQ .buf0 0 (2 ^ k)
  lifted : s.lift = true → u.wordsBelowQ .buf0 0 n ∧ u.wordsBelowQ .buf1 0 (2 ^ (k - 1))

theorem State.logL_lifted (hl : s.lift = true) (k : Nat) : s.logL k = k - 1 := if_pos hl

theorem State.forward_canonical (hs : s.Inv) (hlen : KeepsLength net) (hnet : NetClosed s.q.toNat net)
    (h : s.forward k net = .ok u) : s.CanonicalBuffers u k (2 ^ (k - 1)) := by
  obtain ⟨hv, hk, hcanon, rfl⟩ := State.forward_ok.1 h
  have hF := hs.modulus_ok hv
  obtain ⟨hone, hle⟩ := hk.one_le_logL
  constructor
  case direct =>
    intro hl
    simp only [State.forwardInputs, hl, Bool.false_eq_true, if_false, State.canonical_append] at hcanon
    obtain ⟨hbuf, hroot⟩ := hcanon
    simp only [State.forwardResult, hl, Bool.false_eq_true, if_false]
    exact State.wordsBelowQ_setMemSeq (hlen _ _ (by omega) (s.bufFp_length _))
      (hnet (fpOps_closed hF) (by omega) (s.bufFp_length _) (State.tableEntry_lt hroot) (State.bufFp_lt hbuf))
  case lifted =>
    intro hl
    simp only [State.forwardInputs, hl, State.canonical_append, if_true] at hcanon
    obtain ⟨⟨⟨hbuf, hlift⟩, hroot0⟩, hroot1⟩ := hcanon
    rw [State.canonical_iff] at hlift
    have hω : Fp2.Canon s.modulus s.liftRoot := ⟨hlift s.liftW0 (by simp), hlift s.liftW1 (by simp)⟩
    have hpairs := hnet (fp2Ops_closed hF) (root := s.rootFp2) hone (liftSeq_length s.modulus s.liftRoot _ _)
      (fun j h1 h2 => ⟨State.tableEntry_lt hroot0 j h1 h2, State.tableEntry_lt hroot1 j h1 h2⟩)
      (liftSeq_canon hF hω (State.bufFp_lt hbuf))
    have hsize := hlen (fp2Ops s.modulus) s.rootFp2 hone
      (liftSeq_length s.modulus s.liftRoot (2 ^ s.logL k) (s.bufFp (2 ^ k)))
    simp only [State.forwardResult, hl, if_true, State.setBufFp2]
    rw [← State.logL_lifted hl k]
    have hmax : 2 ^ s.logL k ≤ Config.nmax := two_pow_le_nmax (hle.trans (hk.2.trans hs.maxLog_le))
    exact ⟨State.wordsBelowQ_buf0_setMemSeq_buf1 hmax (State.wordsBelowQ_setMemSeq (by rw [List.length_map, hsize])
        (List.forall_mem_map.2 fun x hx => (hpairs x hx).1)),
      State.wordsBelowQ_setMemSeq (by rw [List.length_map, hsize]) (List.forall_mem_map.2 fun x hx => (hpairs x hx).2)⟩

theorem State.inverse_canonical {extra : List Word} (hs : s.Inv) (hlen : KeepsLength net)
    (hnet : s.cfgValid = true → s.canonical extra = true → NetClosed s.q.toNat net) (h : s.inverse k extra net = .ok u) :
    s.CanonicalBuffers u k (2 ^ k) := by
  obtain ⟨hv, hk, hcanon, hres⟩ := State.inverse_ok.1 h
  have hF := hs.modulus_ok hv
  obtain ⟨hone, hle⟩ := hk.one_le_logL
  obtain ⟨hcanon, hextra⟩ := State.canonical_append.1 hcanon
  have hnet := hnet hv hextra
  constructor
  case direct =>
    intro hl
    simp only [State.inverseInputs, hl, Bool.false_eq_true, if_false, State.canonical_append] at hcanon
    obtain ⟨hbuf, hroot⟩ := hcanon
    simp only [State.inverseResult, hl, Bool.false_eq_true, if_false] at hres
    cases hres
    exact State.wordsBelowQ_setMemSeq (hlen _ _ (by omega) (s.bufFp_length _))
      (hnet (fpOps_closed hF) (by omega) (s.bufFp_length _) (State.tableEntry_lt hroot) (State.bufFp_lt hbuf))
  case lifted =>
    intro hl
    simp only [State.inverseInputs, hl, State.canonical_append, if_true] at hcanon
    obtain ⟨⟨⟨⟨hbuf0, hbuf1⟩, hroot0⟩, hroot1⟩, hlift⟩ := hcanon
    rw [State.canonical_iff] at hlift
    have hω : Fp2.Canon s.modulus s.liftRoot := ⟨hlift s.liftW0 (by simp), hlift s.liftW1 (by simp)⟩
    have hpairs := hnet (fp2Ops_closed hF) (root := s.irootFp2) hone (s.bufFp2_length _)
      (fun j h1 h2 => ⟨State.tableEntry_lt hroot0 j h1 h2, State.tableEntry_lt hroot1 j h1 h2⟩)
      (State.bufFp2_canon hbuf0 hbuf1)
    simp only [State.inverseResult, hl, if_true] at hres
    obtain ⟨r, hr, hu⟩ := bind_eq_ok.1 hres
    cases hu
    obtain ⟨hr1, hr2⟩ := projectSeq_lt hF hω hpairs hr
    obtain ⟨hlen1, hlen2⟩ := projectSeq_length hr
    rw [hlen _ _ hone (s.bufFp2_length _), State.logL_lifted hl] at hlen1 hlen2
    rw [State.logL_lifted hl] at hone
    rw [← pow_succ', Nat.sub_add_cancel (by omega)] at hlen1
    have hmax : 2 ^ k ≤ Config.nmax := two_pow_le_nmax (hk.2.trans hs.maxLog_le)
    exact ⟨State.wordsBelowQ_buf0_setMemSeq_buf1 hmax (State.wordsBelowQ_setMemSeq hlen1 hr1),
      State.wordsBelowQ_setMemSeq hlen2 hr2⟩

/-- A lifted configuration is one of a modulus with q mod 4 = 3 (`40_system.md` R69). -/
theorem State.Inv.mod_four_of_lift (hs : s.Inv) (hv : s.cfgValid = true) (hl : s.lift = true) : s.q.toNat % 4 = 3 := by
  obtain ⟨e, he, -, hlift, -⟩ := hs.config.1 hv
  have hq := (mem_of_chooseModulus he).2
  rw [← hq]
  rw [hlift] at hl
  unfold chooseModulus at he
  split at he
  case h_1 => cases he
  case h_2 =>
    split at he
    case isTrue => cases he
    case isFalse hno => cases he; simpa [hl] using hno

/-- The lazy transforms run in the direct configuration alone. -/
theorem State.lazyTransform_canonical {inputs : List Word} {lazyNet : List Nat → Except CmdError (List Nat)} (hs : s.Inv)
    (hlen : ∀ {a b}, lazyNet a = .ok b → b.length = a.length)
    (hlt : 0 < s.q.toNat → ∀ {a b}, lazyNet a = .ok b → ∀ v ∈ b, v < s.q.toNat)
    (h : s.lazyTransform k inputs lazyNet = .ok u) (n : Nat) : s.CanonicalBuffers u k n := by
  obtain ⟨hv, hq, -, -, c, hc, rfl⟩ := State.lazyTransform_ok.1 h
  constructor
  case direct =>
    intro _
    exact State.wordsBelowQ_setMemSeq ((hlen hc).trans (s.bufFp_length _)) (hlt (hs.modulus_ok hv).prime.pos hc)
  case lifted =>
    intro hl
    have hmod := hs.mod_four_of_lift hv hl
    rw [hq] at hmod
    exact absurd hmod (by decide)

end

/-! ## The commands -/

/-- What R41 asks of the state `t` that command `i` leaves from `s`. -/
structure State.CanonicalWrites (i : Instr) (s t : State) : Prop where
  res0 : (i.isFp = true ∨ i.isFp2 = true) → t.res0.toNat < t.q.toNat
  res1 : i.isFp2 = true → t.res1.toNat < t.q.toNat
  direct : ∀ k, i.transformLogn = some k → s.lift = false → t.wordsBelowQ .buf0 0 (2 ^ k)
  lifted : ∀ k, i.transformLogn = some k → s.lift = true →
    t.wordsBelowQ .buf0 0 (2 ^ (k - 1)) ∧ t.wordsBelowQ .buf1 0 (2 ^ (k - 1)) ∧
      (i = .intti k ∨ i = .inttr k → t.wordsBelowQ .buf0 0 (2 ^ k))

section
variable {i : Instr} {s u t : State} {k : Nat}

theorem State.canonicalWrites_of_system (h1 : i.isFp = false) (h2 : i.isFp2 = false) (ht : i.transformLogn = none) :
    State.CanonicalWrites i s t :=
  ⟨by simp [h1, h2], by simp [h2], by simp [ht], by simp [ht]⟩

theorem State.canonicalWrites_of_fp (h2 : i.isFp2 = false) (ht : i.transformLogn = none) (h : t.res0.toNat < t.q.toNat) :
    State.CanonicalWrites i s t :=
  ⟨fun _ => h, by simp [h2], by simp [ht], by simp [ht]⟩

theorem State.canonicalWrites_of_fp2 (ht : i.transformLogn = none)
    (h : t.res0.toNat < t.q.toNat ∧ t.res1.toNat < t.q.toNat) : State.CanonicalWrites i s t :=
  ⟨fun _ => h.1, fun _ => h.2, by simp [ht], by simp [ht]⟩

theorem State.CanonicalBuffers.canonicalWrites {n : Nat} (h : s.CanonicalBuffers t k n) (h1 : i.isFp = false)
    (h2 : i.isFp2 = false) (ht : i.transformLogn = some k) (hn : 2 ^ (k - 1) ≤ n)
    (hinv : i = .intti k ∨ i = .inttr k → n = 2 ^ k) : State.CanonicalWrites i s t where
  res0 := by simp [h1, h2]
  res1 := by simp [h2]
  direct := fun k' hk hl => by
    obtain rfl : k = k' := Option.some.inj (ht ▸ hk)
    exact h.direct hl
  lifted := fun k' hk hl => by
    obtain rfl : k = k' := Option.some.inj (ht ▸ hk)
    obtain ⟨hbuf0, hbuf1⟩ := h.lifted hl
    exact ⟨State.wordsBelowQ_mono hn hbuf0, hbuf1, fun hi => hinv hi ▸ hbuf0⟩

/-- A completion step that ends with DONE set has written its result. -/
theorem State.canonicalWrites_of_finish {r : Except CmdError State} (hd : s.done = false) (h : s.finish r = .next t)
    (ht : t.done = true) (hr : ∀ u, r = .ok u → State.CanonicalWrites i s u) : State.CanonicalWrites i s t := by
  obtain ⟨u, hu, rfl⟩ | ⟨e, -, rfl⟩ := State.finish_cases h
  · obtain ⟨h0, h1, h2, h3⟩ := hr u hu
    exact ⟨h0, h1, h2, h3⟩
  · rw [State.enterError_done, hd] at ht
    cases ht

end

/-- Every command, by its operand form and the function or network it hands to it. -/
theorem exec_canonicalWrites {i : Instr} {s t : State} (hs : s.Inv) (hd : s.done = false) (h : exec i s = .next t)
    (ht : t.done = true) : State.CanonicalWrites i s t := by
  cases i with
  | nop | setmod | clrerr => exact State.canonicalWrites_of_system rfl rfl rfl
  | fadd =>
    exact State.canonicalWrites_of_finish hd h ht fun u hu =>
      State.canonicalWrites_of_fp rfl rfl (State.fpBinary_canonical hs hu fun _ => fadd_lt)
  | fsub =>
    exact State.canonicalWrites_of_finish hd h ht fun u hu =>
      State.canonicalWrites_of_fp rfl rfl (State.fpBinary_canonical hs hu fun _ => fsub_lt)
  | fmul =>
    exact State.canonicalWrites_of_finish hd h ht fun u hu =>
      State.canonicalWrites_of_fp rfl rfl (State.fpBinary_canonical hs hu fun hF => fmul_lt hF.mers)
  | finv =>
    exact State.canonicalWrites_of_finish hd h ht fun u hu =>
      State.canonicalWrites_of_fp rfl rfl (State.fpUnary_canonical hs hu fun hF _ => finv_lt hF)
  | fsqrt =>
    exact State.canonicalWrites_of_finish hd h ht fun u hu =>
      State.canonicalWrites_of_fp rfl rfl (State.fpUnary_canonical hs hu fsqrt_lt)
  | f2add =>
    exact State.canonicalWrites_of_finish hd h ht fun u hu =>
      State.canonicalWrites_of_fp2 rfl (State.fp2Binary_canonical hs hu fun _ => f2add_canon)
  | f2sub =>
    exact State.canonicalWrites_of_finish hd h ht fun u hu =>
      State.canonicalWrites_of_fp2 rfl (State.fp2Binary_canonical hs hu fun _ => f2sub_canon)
  | f2mul =>
    exact State.canonicalWrites_of_finish hd h ht fun u hu =>
      State.canonicalWrites_of_fp2 rfl (State.fp2Binary_canonical hs hu fun hF => f2mul_canon hF.mers)
  | f2inv =>
    exact State.canonicalWrites_of_finish hd h ht fun u hu =>
      State.canonicalWrites_of_fp2 rfl (State.fp2Unary_canonical hs hu f2inv_canon)
  | f2sqrt =>
    exact State.canonicalWrites_of_finish hd h ht fun u hu =>
      State.canonicalWrites_of_fp2 rfl (State.fp2Unary_canonical hs hu f2sqrt_canon)
  | f2neg =>
    exact State.canonicalWrites_of_finish hd h ht fun u hu =>
      State.canonicalWrites_of_fp2 rfl
        (State.fp2Unary_canonical hs hu fun _ hx hy => Except.ok.inj hy ▸ f2neg_canon hx)
  | ntti k =>
    refine State.canonicalWrites_of_finish hd h ht fun u hu => ?_
    have hbuf := State.forward_canonical hs nttCore_keepsLength (nttCore_netClosed _) hu
    exact hbuf.canonicalWrites rfl rfl rfl le_rfl nofun
  | nttr k =>
    refine State.canonicalWrites_of_finish hd h ht fun u hu => ?_
    have hbuf := State.forward_canonical hs nttRec_keepsLength (nttRec_netClosed _) hu
    exact hbuf.canonicalWrites rfl rfl rfl le_rfl nofun
  | intti k =>
    refine State.canonicalWrites_of_finish hd h ht fun u hu => ?_
    have hbuf := State.inverse_canonical hs (inttCore_keepsLength _)
      (fun _ hninv => inttCore_netClosed (State.canonical_iff.1 hninv s.ninv (by simp))) hu
    exact hbuf.canonicalWrites rfl rfl rfl (Nat.pow_le_pow_right two_pos (by omega)) fun _ => rfl
  | inttr k =>
    refine State.canonicalWrites_of_finish hd h ht fun u hu => ?_
    have hbuf := State.inverse_canonical hs (inttRec_keepsLength _)
      (fun hv _ => inttRec_netClosed (hs.modulus_ok hv).inv2_lt) hu
    exact hbuf.canonicalWrites rfl rfl rfl (Nat.pow_le_pow_right two_pos (by omega)) fun _ => rfl
  | nttil k =>
    refine State.canonicalWrites_of_finish hd h ht fun u hu => ?_
    have hbuf := State.lazyTransform_canonical hs lazyFwd_length (fun hq => lazyFwd_lt hq) hu (2 ^ (k - 1))
    exact hbuf.canonicalWrites rfl rfl rfl le_rfl nofun
  | inttil k =>
    refine State.canonicalWrites_of_finish hd h ht fun u hu => ?_
    have hbuf := State.lazyTransform_canonical hs lazyInv_length (fun hq => lazyInv_lt hq) hu (2 ^ (k - 1))
    exact hbuf.canonicalWrites rfl rfl rfl le_rfl nofun

/-- Settles O58: the field functions and the networks keep canonical values canonical, whatever the arithmetic means. -/
theorem commandsWriteCanonicalValues : Obligations.CommandsWriteCanonicalValues := by
  intro i s t hs hd h ht
  obtain ⟨hres0, hres1, hdirect, hlifted⟩ := exec_canonicalWrites hs hd h ht
  exact ⟨hres0, hres1, hdirect, hlifted⟩

end Sys2Proof.Machine
end

section
/-! The registers as the host sees them (`10_state.md` R21 to R33, `20_memory.md` R50, R51), the interrupt line
(`60_exceptions.md` R136) and the state after reset (R43, `70_reset_and_hazards.md` R139). -/

namespace Sys2Proof.Machine

/-! ## Transactions at a located address -/

section
variable {s : State} {addr : Addr} {l : Loc}

/-- A read of a location that is not held returns what stands there. -/
theorem State.hostRead_of_locate (ha : misaligned addr = false) (hl : locate addr = some l)
    (hb : s.busy = false ∨ l.readsWhileBusy = true) : s.hostRead addr = some (s, .data (s.readLoc l)) := by
  have hfree : (s.busy && !l.readsWhileBusy) = false := by rcases hb with hb | hb <;> simp [hb]
  simp [State.hostRead, ha, hl, hfree]

/-- A write to a location that may be written and is not held writes it. -/
theorem State.hostWrite_of_locate (ha : misaligned addr = false) (hl : locate addr = some l) (hr : l.readOnly = false)
    (hb : s.busy = false ∨ l.writesWhileBusy = true) (d : Word) : s.hostWrite addr d = some (s.writeLoc l d) := by
  have hfree : (s.busy && !l.writesWhileBusy) = false := by rcases hb with hb | hb <;> simp [hb]
  simp [State.hostWrite, ha, hl, hr, hfree]

/-- A write to a read-only register gets a bus error, also while BUSY. -/
theorem State.hostWrite_readOnly (ha : misaligned addr = false) (hl : locate addr = some l) (hr : l.readOnly = true)
    (d : Word) : s.hostWrite addr d = some (s, .busError) := by
  simp [State.hostWrite, ha, hl, hr]

end

/-! ## Memory words -/

theorem MemId.wordAddr_aligned (M : MemId) {i : Nat} (hi : i < Config.nmax) :
    misaligned (BitVec.ofNat 16 (M.wordAddr i)) = false := by
  rw [misaligned_eq_false, M.wordAddr_toNat hi, MemId.wordAddr]
  cases M <;> simp only [MemId.base] <;> omega

/-- Settles O12: the address of a memory word locates that word, and no location of a memory is read-only. -/
theorem hostPortReachesEveryMemoryWord : Obligations.HostPortReachesEveryMemoryWord := by
  intro s M i d hi hb
  have ha := M.wordAddr_aligned hi
  have hl := locate_wordAddr M hi
  refine ⟨State.hostWrite_of_locate ha hl rfl (.inl hb) d, State.hostRead_of_locate ha hl (.inl hb), ?_⟩
  have hread := State.hostRead_of_locate (s := s.setMemWord M i d) ha hl (.inl hb)
  rwa [State.readLoc, State.memWord_setMemWord_same] at hread

/-! ## Registers -/

/-- Settles O13: `ID` is read-only and its reads complete while BUSY. -/
theorem idReadsItsConstantInEveryState : Obligations.IdReadsItsConstantInEveryState := fun _ d =>
  have hl : locate 0x0000#16 = some (.reg .id) := rfl
  ⟨State.hostRead_of_locate rfl hl (.inr rfl), State.hostWrite_readOnly rfl hl rfl d⟩

/-- A read of a register while not BUSY. -/
theorem State.hostRead_reg {s : State} (hb : s.busy = false) (r : Reg) {addr : Addr} (ha : misaligned addr = false)
    (hl : locate addr = some (.reg r)) : s.hostRead addr = some (s, .data (s.readReg r)) :=
  State.hostRead_of_locate ha hl (.inl hb)

/-- A write to a register while not BUSY. -/
theorem State.hostWrite_reg {s : State} (hb : s.busy = false) (d : Word) (r : Reg) {addr : Addr}
    (ha : misaligned addr = false) (hl : locate addr = some (.reg r)) (hr : (Loc.reg r).readOnly = false) :
    s.hostWrite addr d = some (s.writeLoc (.reg r) d) :=
  State.hostWrite_of_locate ha hl hr (.inl hb) d

/-- Settles O16: each address locates its register; the two four-bit registers are read zero-extended. -/
theorem registerMapReadsAndWritesItsRegisters : Obligations.RegisterMapReadsAndWritesItsRegisters := by
  intro s d hb
  have read := @State.hostRead_reg s hb
  have write := @State.hostWrite_reg s hb d
  rw [BitVec.ofNat_toNat, BitVec.ofNat_toNat]
  exact ⟨read .errCode rfl rfl, read .errInfo rfl rfl, read .cmd rfl rfl,
    read .modq rfl rfl, write .modq rfl rfl rfl, read .q rfl rfl, read .maxLog rfl rfl,
    read .ninv rfl rfl, write .ninv rfl rfl rfl,
    read .liftW0 rfl rfl, write .liftW0 rfl rfl rfl, read .liftW1 rfl rfl, write .liftW1 rfl rfl rfl,
    read .a0 rfl rfl, write .a0 rfl rfl rfl, read .a1 rfl rfl, write .a1 rfl rfl rfl,
    read .b0 rfl rfl, write .b0 rfl rfl rfl, read .b1 rfl rfl, write .b1 rfl rfl rfl,
    read .res0 rfl rfl, read .res1 rfl rfl⟩

/-! ## CTRL, STATUS and `irq` -/

theorem State.ctrlWord_getLsbD (s : State) :
    s.ctrlWord.getLsbD 0 = s.ieDone ∧ s.ctrlWord.getLsbD 1 = s.ieErr ∧ ∀ k, 2 ≤ k → s.ctrlWord.getLsbD k = false := by
  refine ⟨?_, ?_, fun k hk => ?_⟩
  case refine_3 => rw [State.ctrlWord, BitVec.getLsbD_append, if_neg (by omega), BitVec.getLsbD_zero]
  all_goals
    simp only [State.ctrlWord, BitVec.getLsbD_append]
    simp

theorem State.statusWord_getLsbD (s : State) :
    s.statusWord.getLsbD 0 = s.busy ∧ s.statusWord.getLsbD 1 = s.done ∧ s.statusWord.getLsbD 2 = s.err ∧
      s.statusWord.getLsbD 3 = s.cfgValid ∧ s.statusWord.getLsbD 4 = s.lift ∧ s.statusWord.getLsbD 5 = s.mers ∧
      ∀ k, 6 ≤ k → s.statusWord.getLsbD k = false := by
  refine ⟨?_, ?_, ?_, ?_, ?_, ?_, fun k hk => ?_⟩
  case refine_7 => rw [State.statusWord, BitVec.getLsbD_append, if_neg (by omega), BitVec.getLsbD_zero]
  all_goals
    simp only [State.statusWord, BitVec.getLsbD_append]
    simp

/-- Settles O17: reads and writes of CTRL complete while BUSY. -/
theorem ctrlHoldsTwoBitsAndIsNeverHeld : Obligations.CtrlHoldsTwoBitsAndIsNeverHeld := fun s d =>
  have hl : locate 0x0004#16 = some (.reg .ctrl) := rfl
  ⟨State.hostWrite_of_locate rfl hl rfl (.inr rfl) d, s.ctrlWord, State.hostRead_of_locate rfl hl (.inr rfl),
    s.ctrlWord_getLsbD⟩

theorem State.writeStatus_eq (s : State) (d : Word) :
    s.writeStatus d = { s with done := if d.getLsbD 1 then false else s.done } := by
  unfold State.writeStatus
  cases d.getLsbD 1 <;> simp

/-- Settles O18: reads of STATUS complete while BUSY. -/
theorem statusShowsItsFlagsAndWritesClearDoneOnly : Obligations.StatusShowsItsFlagsAndWritesClearDoneOnly := by
  intro s d
  have hl : locate 0x0008#16 = some (.reg .status) := rfl
  refine ⟨⟨s.statusWord, State.hostRead_of_locate rfl hl (.inr rfl), s.statusWord_getLsbD⟩, fun hb => ?_⟩
  rw [State.hostWrite_of_locate rfl hl rfl (.inl hb), ← State.writeStatus_eq]
  rfl

theorem State.irq_writeCtrl (s : State) (d : Word) :
    (s.writeCtrl d).irq = ((s.done && d.getLsbD 0) || (s.err && d.getLsbD 1)) := rfl

/-- Settles O19: the two low bits of the four data words are the four settings of the enables. -/
theorem irqFollowsDoneAndErrThroughTheEnables : Obligations.IrqFollowsDoneAndErrThroughTheEnables := by
  intro s
  have hclear : ((s.writeCtrl 1#32).writeStatus 2#32).irq = ((s.done && false) && true || (s.err && false)) := rfl
  refine ⟨?_, ?_, ?_, ?_, by simp [hclear]⟩ <;> simp [State.irq_writeCtrl]

/-! ## Reset -/

/-- `ID` has the first offset of the map and no other. -/
theorem regMap_ne_id {k : Nat} {r : Reg} (hk : 1 ≤ k) (h : regMap[k]? = some r) : r ≠ .id := by
  rintro rfl
  have hnodup : regMap.Nodup := by decide
  have hlt : k < regMap.length := (List.getElem?_eq_some_iff.1 h).1
  have hsame : regMap[k] = regMap[0] := (List.getElem?_eq_some_iff.1 h).2
  have := (hnodup.getElem_inj_iff (hj := by decide)).1 hsame
  omega

/-- Every register but `ID` reads 0 after reset. -/
theorem State.readReg_reset {r : Reg} (h : r ≠ .id) : State.reset.readReg r = 0#32 := by
  cases r with
  | id => exact absurd rfl h
  | _ => rfl

/-- Settles O1: the offset 4k locates register k of the map, and every register but the first reads 0. -/
theorem resetRegistersReadAsTheSpecSays : Obligations.ResetRegistersReadAsTheSpecSays := by
  refine ⟨State.hostRead_reg rfl .id rfl rfl, fun k hk hk' => ?_, rfl, rfl⟩
  have hn : (BitVec.ofNat 16 (4 * k)).toNat = 4 * k := by rw [BitVec.toNat_ofNat, Nat.mod_eq_of_lt (by omega)]
  obtain ⟨r, hr, hl⟩ := locate_reg (addr := BitVec.ofNat 16 (4 * k)) (by omega)
  rw [hn, Nat.mul_div_cancel_left k (by omega)] at hr
  rw [State.hostRead_reg rfl r (misaligned_eq_false.2 (by omega)) hl, State.readReg_reset (regMap_ne_id hk hr)]

theorem step_reset {s : State} {rest : List Event} (h : s.agenda = .reset :: rest) :
    step s = .next (State.resetEvent { s with agenda := rest }) := by
  rw [step, h]

theorem State.byteAt_resetEvent (s : State) (a : Nat) : s.resetEvent.byteAt a = Config.unwrittenByte (s.resets + 1) a := rfl

/-- Settles O2: the reset's turn is the reset event, after which no memory byte is written. -/
theorem resetEventRestoresEveryRegister : Obligations.ResetEventRestoresEveryRegister := by
  intro s rest h
  refine ⟨step_reset h, fun t ht a => ?_⟩
  rw [step_reset h] at ht
  cases ht
  exact State.byteAt_resetEvent _ a

/-- Settles O9: nothing is written, configured, latched or in flight, and the default table meets its constraints. -/
theorem invariantHoldsAtReset : Obligations.InvariantHoldsAtReset where
  mem := rfl
  table := default_entryOk
  config := ⟨nofun, fun _ => ⟨rfl, rfl, rfl, rfl⟩⟩
  latch := ⟨fun _ => ⟨rfl, rfl⟩, nofun, nofun⟩
  flight := nofun

end Sys2Proof.Machine
end

section
/-! What the results of a command are and what it leaves unchanged (`10_state.md` R33, R37; `41_fp.md`, `42_fp2.md`), and that
the registers the host writes reach no command that does not read them (`60_exceptions.md` R131). -/

namespace Sys2Proof.Machine

/-! ## Residues -/

/-- A completion of a two-operand Fp command with canonical operands. -/
theorem State.finish_fpBinary {s : State} {f : Modulus → Nat → Nat → Nat} {r : Nat} (hv : s.cfgValid = true)
    (ha : s.a0.toNat < s.q.toNat) (hb : s.b0.toNat < s.q.toNat) (hr : f s.modulus s.a0.toNat s.b0.toNat = r) :
    s.finish (s.fpBinary f) = .next { s with res0 := BitVec.ofNat 32 r, done := true, busy := false } := by
  have hok : s.fpBinary f = .ok (s.setRes r) :=
    State.fpBinary_ok.2 ⟨hv, State.canonical_iff.2 (by simp [ha, hb]), by rw [← hr]; rfl⟩
  rw [hok]; rfl

/-- Settles O35: the sum and difference of canonical values need one conditional correction by `Q`. -/
theorem faddAndFsubWriteTheResidue : Obligations.FaddAndFsubWriteTheResidue := fun _ hv ha hb =>
  ⟨State.finish_fpBinary hv ha hb (fadd_eq ha hb), State.finish_fpBinary hv ha hb (fsub_eq ha hb)⟩

/-- A completion of a two-operand Fp2 command with canonical operands. -/
theorem State.finish_fp2Binary {s : State} {f : Modulus → Fp2 → Fp2 → Fp2} {r0 r1 : Nat} (hv : s.cfgValid = true)
    (hq : s.q.toNat % 4 = 3) (ha0 : s.a0.toNat < s.q.toNat) (ha1 : s.a1.toNat < s.q.toNat)
    (hb0 : s.b0.toNat < s.q.toNat) (hb1 : s.b1.toNat < s.q.toNat) (hr : f s.modulus s.opX s.opY = (r0, r1)) :
    s.finish (s.fp2Binary f) = .next { s with
      res0 := BitVec.ofNat 32 r0, res1 := BitVec.ofNat 32 r1, done := true, busy := false } := by
  have hok : s.fp2Binary f = .ok (s.setResPair (r0, r1)) :=
    State.fp2Binary_ok.2 ⟨hv, hq, State.canonical_iff.2 (by simp [ha0, ha1, hb0, hb1]), by rw [hr]⟩
  rw [hok]; rfl

/-- A completion of a one-operand Fp2 command with a canonical operand, whatever B holds. -/
theorem State.finish_fp2Unary {s : State} {f : Modulus → Fp2 → Except CmdError Fp2} {r0 r1 : Nat} (hv : s.cfgValid = true)
    (hq : s.q.toNat % 4 = 3) (ha0 : s.a0.toNat < s.q.toNat) (ha1 : s.a1.toNat < s.q.toNat)
    (hr : f s.modulus s.opX = .ok (r0, r1)) :
    s.finish (s.fp2Unary f) = .next { s with
      res0 := BitVec.ofNat 32 r0, res1 := BitVec.ofNat 32 r1, done := true, busy := false } := by
  have hok : s.fp2Unary f = .ok (s.setResPair (r0, r1)) :=
    State.fp2Unary_ok.2 ⟨hv, hq, State.canonical_iff.2 (by simp [ha0, ha1]), _, hr, rfl⟩
  rw [hok]; rfl

/-- Settles O40: the Fp operations on each component. -/
theorem f2addF2subF2negWriteTheResidues : Obligations.F2addF2subF2negWriteTheResidues := fun _ hv hq ha0 ha1 =>
  ⟨fun hb0 hb1 =>
    ⟨State.finish_fp2Binary hv hq ha0 ha1 hb0 hb1 (Prod.ext (fadd_eq ha0 hb0) (fadd_eq ha1 hb1)),
      State.finish_fp2Binary hv hq ha0 ha1 hb0 hb1 (Prod.ext (fsub_eq ha0 hb0) (fsub_eq ha1 hb1))⟩,
    State.finish_fp2Unary hv hq ha0 ha1 (congrArg Except.ok (Prod.ext (fneg_eq ha0) (fneg_eq ha1)))⟩

/-! ## Frames -/

/-- Where a command writes when it does not take error entry, `u` being `s` with its writes: each kind of command has its
own registers. -/
inductive State.Wrote (s : State) : Instr → State → Prop where
  | nop : s.Wrote .nop s
  | setmod (e : Config.ModEntry) (liftFlag mersFlag : Bool) : s.Wrote .setmod (s.setConfig e liftFlag mersFlag)
  | clrerr : s.Wrote .clrerr s.leaveError
  | fp {i : Instr} (r : Nat) : i.isFp = true → s.Wrote i (s.setRes r)
  | fp2 {i : Instr} (r : Fp2) : i.isFp2 = true → s.Wrote i (s.setResPair r)
  | transform {i : Instr} {k : Nat} (m : Memory) : i.transformLogn = some k → s.Wrote i { s with mem := m }

section
variable {i : Instr} {s u t : State} {k : Nat}

theorem State.fpBinary_wrote {f : Modulus → Nat → Nat → Nat} (hi : i.isFp = true) (h : s.fpBinary f = .ok u) :
    s.Wrote i u := by
  obtain ⟨-, -, rfl⟩ := State.fpBinary_ok.1 h
  exact .fp _ hi

theorem State.fpUnary_wrote {g : State → Except CmdError Unit} {f : Modulus → Nat → Except CmdError Nat}
    (hi : i.isFp = true) (h : s.fpUnary g f = .ok u) : s.Wrote i u := by
  obtain ⟨-, -, -, r, -, rfl⟩ := State.fpUnary_ok.1 h
  exact .fp r hi

theorem State.fp2Binary_wrote {f : Modulus → Fp2 → Fp2 → Fp2} (hi : i.isFp2 = true) (h : s.fp2Binary f = .ok u) :
    s.Wrote i u := by
  obtain ⟨-, -, -, rfl⟩ := State.fp2Binary_ok.1 h
  exact .fp2 _ hi

theorem State.fp2Unary_wrote {f : Modulus → Fp2 → Except CmdError Fp2} (hi : i.isFp2 = true)
    (h : s.fp2Unary f = .ok u) : s.Wrote i u := by
  obtain ⟨-, -, -, r, -, rfl⟩ := State.fp2Unary_ok.1 h
  exact .fp2 r hi

theorem State.forward_wrote {net : {α : Type} → ElemOps α → (Nat → α) → Nat → List α → List α}
    (hi : i.transformLogn = some k) (h : s.forward k net = .ok u) : s.Wrote i u := by
  obtain ⟨-, -, -, rfl⟩ := State.forward_ok.1 h
  unfold State.forwardResult
  split
  case isTrue => exact .transform _ hi
  case isFalse => exact .transform _ hi

theorem State.inverse_wrote {extra : List Word} {net : {α : Type} → ElemOps α → (Nat → α) → Nat → List α → List α}
    (hi : i.transformLogn = some k) (h : s.inverse k extra net = .ok u) : s.Wrote i u := by
  obtain ⟨-, -, -, hres⟩ := State.inverse_ok.1 h
  unfold State.inverseResult at hres
  split at hres
  case isTrue =>
    obtain ⟨r, -, hu⟩ := bind_eq_ok.1 hres
    cases hu
    exact .transform _ hi
  case isFalse => cases hres; exact .transform _ hi

theorem State.lazyTransform_wrote {inputs : List Word} {net : List Nat → Except CmdError (List Nat)}
    (hi : i.transformLogn = some k) (h : s.lazyTransform k inputs net = .ok u) : s.Wrote i u := by
  obtain ⟨-, -, -, -, c, -, rfl⟩ := State.lazyTransform_ok.1 h
  exact .transform _ hi

theorem State.wrote_of_finish {r : Except CmdError State} (hr : ∀ u, r = .ok u → s.Wrote i u)
    (h : s.finish r = .next t) : (∃ e, t = s.enterError e) ∨ ∃ u, s.Wrote i u ∧ t = u.complete := by
  obtain ⟨u, hu, rfl⟩ | ⟨e, -, rfl⟩ := State.finish_cases h
  · exact .inr ⟨u, hr u hu, rfl⟩
  · exact .inl ⟨e, rfl⟩

theorem execSetmod_wrote (h : exec .setmod s = .next t) :
    (∃ e, t = s.enterError e) ∨ ∃ u, s.Wrote .setmod u ∧ t = u.complete := by
  cases hc : chooseModulus s.cfgTable s.modq.toNat with
  | ok e => rw [execSetmod_ok hc] at h; cases h; exact .inr ⟨_, .setmod e _ _, rfl⟩
  | error c => rw [execSetmod_error hc] at h; cases h; exact .inl ⟨_, rfl⟩

/-- Every command takes error entry, or writes the registers of its kind and completes. -/
theorem exec_wrote (h : exec i s = .next t) : (∃ e, t = s.enterError e) ∨ ∃ u, s.Wrote i u ∧ t = u.complete := by
  cases i with
  | nop => cases h; exact .inr ⟨s, .nop, rfl⟩
  | setmod => exact execSetmod_wrote h
  | clrerr => cases h; exact .inr ⟨s.leaveError, .clrerr, rfl⟩
  | fadd | fsub | fmul => exact State.wrote_of_finish (fun _ => State.fpBinary_wrote rfl) h
  | finv | fsqrt => exact State.wrote_of_finish (fun _ => State.fpUnary_wrote rfl) h
  | f2add | f2sub | f2mul => exact State.wrote_of_finish (fun _ => State.fp2Binary_wrote rfl) h
  | f2inv | f2sqrt | f2neg => exact State.wrote_of_finish (fun _ => State.fp2Unary_wrote rfl) h
  | ntti | nttr => exact State.wrote_of_finish (fun _ => State.forward_wrote rfl) h
  | intti | inttr => exact State.wrote_of_finish (fun _ => State.inverse_wrote rfl) h
  | nttil | inttil => exact State.wrote_of_finish (fun _ => State.lazyTransform_wrote rfl) h

end

/-- Settles O56: error entry writes flags alone, and the registers of each kind of command are in no other's frame. -/
theorem commandsWriteOnlyTheirRegisters : Obligations.CommandsWriteOnlyTheirRegisters := by
  intro i s t h
  obtain ⟨e, rfl⟩ | ⟨u, hu, rfl⟩ := exec_wrote h
  · simp
  · cases hu with
    | nop | clrerr | setmod => simp
    | fp r hi => simp [hi]
    | fp2 r hi => simp [hi]
    | transform m hi => simp [hi]

/-! ## The registers the host writes -/

/-- The values of the registers with access RW (`10_state.md` R21). -/
structure HostRegs where
  ieDone : Bool
  ieErr : Bool
  modq : Word
  ninv : Word
  liftW0 : Word
  liftW1 : Word
  a0 : Word
  a1 : Word
  b0 : Word
  b1 : Word

/-- The values these registers hold. -/
def State.hostRegs (s : State) : HostRegs :=
  ⟨s.ieDone, s.ieErr, s.modq, s.ninv, s.liftW0, s.liftW1, s.a0, s.a1, s.b0, s.b1⟩

/-- `s` with other values in the registers the host writes. -/
def State.withHost (s : State) (h : HostRegs) : State :=
  { s with
    ieDone := h.ieDone, ieErr := h.ieErr, modq := h.modq, ninv := h.ninv, liftW0 := h.liftW0, liftW1 := h.liftW1
    a0 := h.a0, a1 := h.a1, b0 := h.b0, b1 := h.b1 }

/-- No command writes them. -/
theorem State.Completes.hostRegs {s t : State} (h : s.Completes t) : t.hostRegs = s.hostRegs := by
  cases h with
  | error | config | cleared => rfl
  | data u hu => rw [hu.frame]; rfl

/-- The one-operand commands (R33). -/
def UnaryCommand (i : Instr) : Prop := i = .finv ∨ i = .fsqrt ∨ i = .f2inv ∨ i = .f2sqrt ∨ i = .f2neg

/-- The values `h` agree with the registers of `s` that command `i` reads (`60_exceptions.md` R131; SETMOD reads `MODQ`,
`40_system.md` R69). By default each register has the value it has in `s`. -/
structure State.SameReads (s : State) (h : HostRegs) (i : Instr) : Prop where
  modq : i = .setmod → h.modq = s.modq := by exact fun _ => rfl
  a0 : i.isFp = true ∨ i.isFp2 = true → h.a0 = s.a0 := by exact fun _ => rfl
  a1 : i.isFp2 = true → h.a1 = s.a1 := by exact fun _ => rfl
  b0 : i.isFp = true ∨ i.isFp2 = true → ¬UnaryCommand i → h.b0 = s.b0 := by exact fun _ _ => rfl
  b1 : i.isFp2 = true → ¬UnaryCommand i → h.b1 = s.b1 := by exact fun _ _ => rfl
  ninv : ∀ k, i = .intti k ∨ i = .inttil k → h.ninv = s.ninv := by exact fun _ _ => rfl
  liftRoot : i.transformLogn ≠ none → s.lift = true → h.liftW0 = s.liftW0 ∧ h.liftW1 = s.liftW1 := by
    exact fun _ _ => ⟨rfl, rfl⟩

section
variable {s : State} {h : HostRegs}

/-- A completion step with other values in the registers the host writes. -/
theorem State.finish_withHost (s : State) (h : HostRegs) (r : Except CmdError State) :
    (s.withHost h).finish ((fun u => u.withHost h) <$> r) = mapNext (fun t => t.withHost h) (s.finish r) := by
  cases r <;> rfl

theorem State.withHost_ninv (s : State) (h : HostRegs) : (s.withHost h).ninv = h.ninv := rfl

theorem State.opX_withHost (h0 : h.a0 = s.a0) (h1 : h.a1 = s.a1) : (s.withHost h).opX = s.opX :=
  Prod.ext (congrArg BitVec.toNat h0) (congrArg BitVec.toNat h1)

theorem State.opY_withHost (h0 : h.b0 = s.b0) (h1 : h.b1 = s.b1) : (s.withHost h).opY = s.opY :=
  Prod.ext (congrArg BitVec.toNat h0) (congrArg BitVec.toNat h1)

theorem State.liftRoot_withHost (h0 : h.liftW0 = s.liftW0) (h1 : h.liftW1 = s.liftW1) :
    (s.withHost h).liftRoot = s.liftRoot :=
  Prod.ext (congrArg BitVec.toNat h0) (congrArg BitVec.toNat h1)

/-! Each operand form in turn: its checks and its result read the registers of its operands, and its writes are others. -/

theorem State.fpBinary_withHost (f : Modulus → Nat → Nat → Nat) (h0 : h.a0 = s.a0) (h1 : h.b0 = s.b0) :
    (s.withHost h).fpBinary f = (fun u => u.withHost h) <$> s.fpBinary f := by
  have hA : (s.withHost h).opA = s.opA := congrArg BitVec.toNat h0
  have hB : (s.withHost h).opB = s.opB := congrArg BitVec.toNat h1
  simp only [State.fpBinary, map_bind, ← h0, ← h1, hA, hB]
  rfl

theorem State.fpUnary_withHost {g : State → Except CmdError Unit} (f : Modulus → Nat → Except CmdError Nat)
    (hg : g (s.withHost h) = g s) (h0 : h.a0 = s.a0) :
    (s.withHost h).fpUnary g f = (fun u => u.withHost h) <$> s.fpUnary g f := by
  have hA : (s.withHost h).opA = s.opA := congrArg BitVec.toNat h0
  simp only [State.fpUnary, map_bind, ← h0, hA, hg]
  rfl

theorem State.fp2Binary_withHost (f : Modulus → Fp2 → Fp2 → Fp2) (h0 : h.a0 = s.a0) (h1 : h.a1 = s.a1)
    (h2 : h.b0 = s.b0) (h3 : h.b1 = s.b1) :
    (s.withHost h).fp2Binary f = (fun u => u.withHost h) <$> s.fp2Binary f := by
  simp only [State.fp2Binary, map_bind, State.opX_withHost h0 h1, State.opY_withHost h2 h3, ← h0, ← h1, ← h2, ← h3]
  rfl

theorem State.fp2Unary_withHost (f : Modulus → Fp2 → Except CmdError Fp2) (h0 : h.a0 = s.a0) (h1 : h.a1 = s.a1) :
    (s.withHost h).fp2Unary f = (fun u => u.withHost h) <$> s.fp2Unary f := by
  simp only [State.fp2Unary, map_bind, State.opX_withHost h0 h1, ← h0, ← h1]
  rfl

section
variable {k : Nat} {net : {α : Type} → ElemOps α → (Nat → α) → Nat → List α → List α}

/-- The lift root is in the input set in the lifted configuration alone. -/
theorem State.forwardInputs_withHost (hω : s.lift = true → h.liftW0 = s.liftW0 ∧ h.liftW1 = s.liftW1) :
    (s.withHost h).forwardInputs k = s.forwardInputs k := by
  by_cases hl : s.lift = true
  · simp only [State.forwardInputs, if_pos hl, if_pos (show (s.withHost h).lift = true from hl)]
    obtain ⟨h0, h1⟩ := hω hl
    rw [← h0, ← h1]; rfl
  · simp only [State.forwardInputs, if_neg hl, if_neg (show ¬(s.withHost h).lift = true from hl)]
    rfl

theorem State.inverseInputs_withHost (hω : s.lift = true → h.liftW0 = s.liftW0 ∧ h.liftW1 = s.liftW1) :
    (s.withHost h).inverseInputs k = s.inverseInputs k := by
  by_cases hl : s.lift = true
  · simp only [State.inverseInputs, if_pos hl, if_pos (show (s.withHost h).lift = true from hl)]
    obtain ⟨h0, h1⟩ := hω hl
    rw [← h0, ← h1]; rfl
  · simp only [State.inverseInputs, if_neg hl, if_neg (show ¬(s.withHost h).lift = true from hl)]
    rfl

theorem State.forwardResult_withHost (hω : s.lift = true → h.liftW0 = s.liftW0 ∧ h.liftW1 = s.liftW1) :
    (s.withHost h).forwardResult k net = (s.forwardResult k net).withHost h := by
  by_cases hl : s.lift = true
  · simp only [State.forwardResult, if_pos hl, if_pos (show (s.withHost h).lift = true from hl)]
    rw [State.liftRoot_withHost (hω hl).1 (hω hl).2]; rfl
  · simp only [State.forwardResult, if_neg hl, if_neg (show ¬(s.withHost h).lift = true from hl)]
    rfl

theorem State.inverseResult_withHost (hω : s.lift = true → h.liftW0 = s.liftW0 ∧ h.liftW1 = s.liftW1) :
    (s.withHost h).inverseResult k net = (fun u => u.withHost h) <$> s.inverseResult k net := by
  by_cases hl : s.lift = true
  · simp only [State.inverseResult, if_pos hl, if_pos (show (s.withHost h).lift = true from hl)]
    rw [State.liftRoot_withHost (hω hl).1 (hω hl).2, map_bind]; rfl
  · simp only [State.inverseResult, if_neg hl, if_neg (show ¬(s.withHost h).lift = true from hl)]
    rfl

theorem State.forward_withHost (hω : s.lift = true → h.liftW0 = s.liftW0 ∧ h.liftW1 = s.liftW1) :
    (s.withHost h).forward k net = (fun u => u.withHost h) <$> s.forward k net := by
  simp only [State.forward, map_bind, State.forwardInputs_withHost hω, State.forwardResult_withHost hω]
  rfl

theorem State.inverse_withHost {extra : List Word} (hω : s.lift = true → h.liftW0 = s.liftW0 ∧ h.liftW1 = s.liftW1) :
    (s.withHost h).inverse k extra net = (fun u => u.withHost h) <$> s.inverse k extra net := by
  simp only [State.inverse, map_bind, State.inverseInputs_withHost hω, State.inverseResult_withHost hω]
  rfl

theorem State.lazyTransform_withHost {inputs : List Word} {lazyNet : List Nat → Except CmdError (List Nat)} :
    (s.withHost h).lazyTransform k inputs lazyNet = (fun u => u.withHost h) <$> s.lazyTransform k inputs lazyNet := by
  simp only [State.lazyTransform, map_bind]
  rfl

end

theorem execSetmod_withHost (hm : h.modq = s.modq) :
    exec .setmod (s.withHost h) = mapNext (fun t => t.withHost h) (exec .setmod s) := by
  cases hc : chooseModulus s.cfgTable s.modq.toNat with
  | ok e => rw [execSetmod_ok hc, execSetmod_ok (s := s.withHost h) (hm ▸ hc)]; rfl
  | error c => rw [execSetmod_error hc, execSetmod_error (s := s.withHost h) (hm ▸ hc)]; rfl

/-- A command does the same under all values of the registers that it does not read. -/
theorem exec_withHost {i : Instr} (hi : s.SameReads h i) :
    exec i (s.withHost h) = mapNext (fun t => t.withHost h) (exec i s) := by
  have finish {r r' : Except CmdError State} (hr : r' = (fun u => u.withHost h) <$> r) :
      (s.withHost h).finish r' = mapNext (fun t => t.withHost h) (s.finish r) := hr ▸ s.finish_withHost h r
  cases i with
  | nop => rfl
  | clrerr => rfl
  | setmod => exact execSetmod_withHost (hi.modq rfl)
  | fadd | fsub | fmul =>
    exact finish (State.fpBinary_withHost _ (hi.a0 (.inl rfl)) (hi.b0 (.inl rfl) (by simp [UnaryCommand])))
  | finv | fsqrt => exact finish (State.fpUnary_withHost _ rfl (hi.a0 (.inl rfl)))
  | f2add | f2sub | f2mul =>
    exact finish (State.fp2Binary_withHost _ (hi.a0 (.inr rfl)) (hi.a1 rfl)
      (hi.b0 (.inr rfl) (by simp [UnaryCommand])) (hi.b1 rfl (by simp [UnaryCommand])))
  | f2inv | f2sqrt | f2neg => exact finish (State.fp2Unary_withHost _ (hi.a0 (.inr rfl)) (hi.a1 rfl))
  | ntti | nttr => exact finish (State.forward_withHost (hi.liftRoot nofun))
  | inttr => exact finish (State.inverse_withHost (hi.liftRoot nofun))
  | intti k =>
    refine finish ?_
    rw [← State.inverse_withHost (hi.liftRoot nofun), State.withHost_ninv, hi.ninv k (.inl rfl)]
  | nttil k => exact finish State.lazyTransform_withHost
  | inttil k =>
    refine finish ?_
    rw [← State.lazyTransform_withHost, State.lazyInverseInputs, State.withHost_ninv, hi.ninv k (.inr rfl)]
    rfl

end

/-- The form in which the statement asks for it: `f` sets registers that the command does not read. -/
theorem exec_hostUpdate {i : Instr} {s : State} {f : State → State} {g : HostRegs → HostRegs}
    (hf : ∀ t : State, f t = t.withHost (g t.hostRegs)) (hi : s.SameReads (g s.hostRegs) i) :
    exec i (f s) = mapNext f (exec i s) := by
  rw [hf, exec_withHost hi]
  obtain ⟨r, hr⟩ := exec_eq_finish i s
  obtain ⟨t, ht⟩ := s.finish_next r
  have hnext : exec i s = .next t := hr.trans ht
  rw [hnext, mapNext, mapNext, hf t, (exec_completes hnext).hostRegs]

/-- Settles O59: each clause sets registers that its commands do not read. -/
theorem commandsIgnoreTheHostWrittenRegistersTheyDoNotRead :
    Obligations.CommandsIgnoreTheHostWrittenRegistersTheyDoNotRead := by
  refine ⟨fun i s x y h2 => ?_, fun i s x0 x1 y0 y1 h1 h2 => ?_, fun i s x y hi => ?_, fun i s x hi => ?_,
    fun i s x y hi => ?_, fun i s x hi => ?_, fun i s x y => ?_⟩
  · refine exec_hostUpdate (g := fun h => { h with a1 := x, b1 := y }) (fun _ => rfl) ?_
    exact { a1 := by simp [h2], b1 := by simp [h2] }
  · refine exec_hostUpdate (g := fun h => { h with a0 := x0, a1 := x1, b0 := y0, b1 := y1 }) (fun _ => rfl) ?_
    exact { a0 := by simp [h1, h2], a1 := by simp [h2], b0 := by simp [h1, h2], b1 := by simp [h2] }
  · refine exec_hostUpdate (g := fun h => { h with b0 := x, b1 := y }) (fun _ => rfl) ?_
    exact { b0 := fun _ hn => absurd hi hn, b1 := fun _ hn => absurd hi hn }
  · refine exec_hostUpdate (g := fun h => { h with ninv := x }) (fun _ => rfl) ?_
    exact { ninv := fun k hk => absurd hk (not_or.2 (hi k)) }
  · refine exec_hostUpdate (g := fun h => { h with liftW0 := x, liftW1 := y }) (fun _ => rfl) ?_
    exact { liftRoot := fun ht hl => absurd hi (not_or.2 ⟨ht, by simp [hl]⟩) }
  · refine exec_hostUpdate (g := fun h => { h with modq := x }) (fun _ => rfl) ?_
    exact { modq := fun hset => absurd hset hi }
  · exact exec_hostUpdate (g := fun h => { h with ieDone := x, ieErr := y }) (fun _ => rfl) {}

end Sys2Proof.Machine
end
section
/-! The memories as words (`20_memory.md` R45, R47), the causes of a bus error (R48, R49) and the BUSY hold (R50 to R54). -/

namespace Sys2Proof.Machine

/-! ## Words of the memories -/

theorem MemId.base_apart {M M' : MemId} (h : M' ≠ M) :
    M'.base + 4 * Config.nmax ≤ M.base ∨ M.base + 4 * Config.nmax ≤ M'.base := by
  revert h
  cases M <;> cases M' <;> decide

/-- Two words of the memories share no byte (R45). -/
theorem MemId.wordAddr_apart {M M' : MemId} {i j : Nat} (hi : i < Config.nmax) (hj : j < Config.nmax)
    (h : M' ≠ M ∨ j ≠ i) : M'.wordAddr j + 4 ≤ M.wordAddr i ∨ M.wordAddr i + 4 ≤ M'.wordAddr j := by
  unfold MemId.wordAddr
  by_cases hM : M' = M
  · subst hM
    have hji : j ≠ i := h.resolve_left fun hne => hne rfl
    omega
  · have := MemId.base_apart hM
    omega

theorem State.memWord_setMemWord_other (s : State) {M M' : MemId} {i j : Nat} (w : Word) (hi : i < Config.nmax)
    (hj : j < Config.nmax) (h : M' ≠ M ∨ j ≠ i) : (s.setMemWord M i w).memWord M' j = s.memWord M' j :=
  s.wordAt_setMemWord_other M i _ w (MemId.wordAddr_apart hi hj h)

/-- Byte `k` of a word as a quotient. -/
theorem wordByte_eq_div (w : Word) (k : Nat) : wordByte w k = BitVec.ofNat 8 (w.toNat / 2 ^ (8 * k)) := by
  rw [wordByte, BitVec.extractLsb', Nat.shiftRight_eq_div_pow]

theorem State.byteAt_setMemWord_same (s : State) (M : MemId) (i : Nat) (w : Word) {k : Nat} (hk : k < 4) :
    (s.setMemWord M i w).byteAt (M.wordAddr i + k) = wordByte w k := by
  rw [State.byteAt, State.setMemWord_mem, memLookup_storeWord, if_pos (by omega), Nat.add_sub_cancel_left]
  rfl

/-- Settles O11: a word write gives the bytes of its word, and no other word of the six memories has one of them. -/
theorem wordWrittenReadsBackAndNothingElseChanges : Obligations.WordWrittenReadsBackAndNothingElseChanges :=
  fun s M i w hi =>
    ⟨s.memWord_setMemWord_same M i w, fun k hk => (s.byteAt_setMemWord_same M i w hk).trans (wordByte_eq_div w k),
      fun _ _ hj h => s.memWord_setMemWord_other w hi hj h⟩

/-! ## Addresses of registers -/

/-- The offset of a register in the map of `10_state.md` R21. -/
def Reg.offset (r : Reg) : Nat := 4 * regMap.idxOf r

/-- Everything an address that names something can name (R45). -/
theorem locate_cases {addr : Addr} {l : Loc} (h : locate addr = some l) :
    (∃ r, regMap[addr.toNat / 4]? = some r ∧ l = .reg r) ∨ (memBase ≤ addr.toNat ∧ ∃ M i, l = .word M i) := by
  unfold locate at h
  simp only at h
  split at h
  case isTrue =>
    obtain ⟨r, hget, rfl⟩ := Option.map_eq_some_iff.1 h
    exact .inl ⟨r, hget, rfl⟩
  case isFalse hge =>
    obtain ⟨M, -, rfl⟩ := Option.map_eq_some_iff.1 h
    exact .inr ⟨Nat.le_of_not_lt hge, M, _, rfl⟩

theorem mul_div_eq_offset {a : Nat} {r : Reg} (h : regMap[a / 4]? = some r) : 4 * (a / 4) = r.offset := by
  have hnodup : regMap.Nodup := by decide
  obtain ⟨hlt, rfl⟩ := List.getElem?_eq_some_iff.1 h
  rw [Reg.offset, hnodup.idxOf_getElem _ hlt]

/-- A class of locations that holds registers only is a list of offsets. -/
theorem locate_class_iff {p : Loc → Bool} {offsets : List Nat} (hreg : ∀ r, p (.reg r) = true ↔ r.offset ∈ offsets)
    (hword : ∀ M i, p (.word M i) = false) (hlow : ∀ a ∈ offsets, a < memBase) {addr : Addr} {l : Loc}
    (ha : misaligned addr = false) (hl : locate addr = some l) : p l = true ↔ addr.toNat ∈ offsets := by
  obtain ⟨r, hget, rfl⟩ | ⟨hhigh, M, i, rfl⟩ := locate_cases hl
  · rw [misaligned_eq_false] at ha
    rw [hreg, ← mul_div_eq_offset hget, Nat.mul_div_cancel' (Nat.dvd_of_mod_eq_zero ha)]
  · rw [hword]
    exact iff_of_false Bool.false_ne_true fun hmem => absurd (hlow _ hmem) (Nat.not_lt.2 hhigh)

section
variable {addr : Addr} {l : Loc}

theorem Loc.readOnly_iff (ha : misaligned addr = false) (hl : locate addr = some l) :
    l.readOnly = true ↔ addr.toNat ∈ [0x00, 0x0C, 0x10, 0x1C, 0x20, 0x40, 0x44] :=
  locate_class_iff (fun r => by cases r <;> decide) (fun _ _ => rfl) (by decide) ha hl

theorem Loc.readsWhileBusy_iff (ha : misaligned addr = false) (hl : locate addr = some l) :
    l.readsWhileBusy = true ↔ addr.toNat ∈ [0x00, 0x04, 0x08, 0x0C, 0x10] :=
  locate_class_iff (fun r => by cases r <;> decide) (fun _ _ => rfl) (by decide) ha hl

theorem Loc.writesWhileBusy_iff (ha : misaligned addr = false) (hl : locate addr = some l) :
    l.writesWhileBusy = true ↔ addr.toNat ∈ [0x04] :=
  locate_class_iff (fun r => by cases r <;> decide) (fun _ _ => rfl) (by decide) ha hl

theorem Loc.eq_cmd_iff (ha : misaligned addr = false) (hl : locate addr = some l) :
    l = .reg .cmd ↔ addr.toNat = 0x14 := by
  have hclass := locate_class_iff (p := fun l => decide (l = .reg .cmd)) (offsets := [0x14])
    (fun r => by cases r <;> decide) (fun _ _ => rfl) (by decide) ha hl
  simpa using hclass

end

/-! ## Bus errors -/

/-- The causes of a bus error that reads and writes share (R48, R49): misalignment and the reserved ranges. -/
theorem misaligned_or_reserved_iff {addr : Addr} : (misaligned addr = true ∨ locate addr = none) ↔
    (addr.toNat % 4 ≠ 0 ∨ (0x0048 ≤ addr.toNat ∧ addr.toNat < 0x2000) ∨ 0xE000 ≤ addr.toNat) := by
  rw [misaligned_eq_true, locate_eq_none]

theorem State.hostRead_reserved (s : State) {addr : Addr} (h : misaligned addr = true ∨ locate addr = none) :
    s.hostRead addr = some (s, .busError) := by
  unfold State.hostRead
  obtain h | h := h <;> simp [h]

theorem State.hostWrite_reserved (s : State) {addr : Addr} (h : misaligned addr = true ∨ locate addr = none) (d : Word) :
    s.hostWrite addr d = some (s, .busError) := by
  unfold State.hostWrite
  obtain h | h := h <;> simp [h]

/-- Settles O14: the alignment check comes before the hold and the address map. -/
theorem misalignedTransactionGetsBusError : Obligations.MisalignedTransactionGetsBusError := fun s _ d ha =>
  ⟨s.hostRead_reserved (.inl (misaligned_eq_true.2 ha)), s.hostWrite_reserved (.inl (misaligned_eq_true.2 ha)) d⟩

/-- An address that is neither misaligned nor reserved names a location. -/
theorem exists_locate {addr : Addr} (h : ¬(misaligned addr = true ∨ locate addr = none)) :
    misaligned addr = false ∧ ∃ l, locate addr = some l := by
  obtain ⟨ha, hl⟩ := not_or.1 h
  exact ⟨by simpa using ha, Option.ne_none_iff_exists'.1 hl⟩

/-- A launch attempt is refused when an error is latched and the word is not CLRERR (`30_encoding.md` R64). -/
theorem State.launch_busError {s s' : State} {d : Word} :
    s.launch d = (s', .busError) ↔ s' = s ∧ s.err = true ∧ d ≠ clrerrWord := by
  unfold State.launch
  split
  case isTrue hrefused => simpa [hrefused] using eq_comm
  case isFalse haccepted => simp [haccepted]

/-- A write that is not held ends in a bus error at a read-only register and at a refused launch attempt. -/
theorem State.writeLoc_busError {s s' : State} {l : Loc} {d : Word} :
    s.writeLoc l d = (s', .busError) ↔
      s' = s ∧ (l.readOnly = true ∨ l = .reg .cmd ∧ s.err = true ∧ d ≠ clrerrWord) := by
  cases l with
  | word M i => simp [State.writeLoc, Loc.readOnly]
  | reg r =>
    cases r with
    | cmd => rw [State.writeLoc, State.launch_busError]; simp [Loc.readOnly]
    | id | errCode | errInfo | q | maxLog | res0 | res1 => simpa [State.writeLoc, Loc.readOnly] using eq_comm
    | ctrl | status | modq | ninv | liftW0 | liftW1 | a0 | a1 | b0 | b1 => simp [State.writeLoc, Loc.readOnly]

theorem State.hostRead_busError {s s' : State} {addr : Addr} :
    s.hostRead addr = some (s', .busError) ↔ s' = s ∧ (misaligned addr = true ∨ locate addr = none) := by
  constructor
  · intro h
    obtain ⟨he, hcause⟩ | ⟨he, -⟩ | ⟨l, -, he⟩ := s.hostRead_cases addr
    · rw [he] at h; cases h; exact ⟨rfl, hcause⟩
    · rw [he] at h; cases h
    · rw [he] at h; cases h
  · rintro ⟨rfl, hcause⟩
    exact s'.hostRead_reserved hcause

/-- A write at a located address, in the order of R51. -/
theorem State.hostWrite_located {s : State} {addr : Addr} {l : Loc} (ha : misaligned addr = false)
    (hl : locate addr = some l) (d : Word) : s.hostWrite addr d =
      if l.readOnly then some (s, .busError)
      else if s.busy && !l.writesWhileBusy then none
      else some (s.writeLoc l d) := by
  simp [State.hostWrite, ha, hl]

/-- The launch attempt that ends in a bus error: `CMD` is written, while not BUSY, with an error latched and another word
than CLRERR (`30_encoding.md` R64). -/
def State.RefusedLaunch (s : State) (l : Loc) (d : Word) : Prop :=
  l = .reg .cmd ∧ s.busy = false ∧ s.err = true ∧ d ≠ clrerrWord

theorem State.hostWrite_located_busError {s s' : State} {addr : Addr} {l : Loc} (ha : misaligned addr = false)
    (hl : locate addr = some l) (d : Word) :
    s.hostWrite addr d = some (s', .busError) ↔ s' = s ∧ (l.readOnly = true ∨ s.RefusedLaunch l d) := by
  rw [State.hostWrite_located ha hl]
  unfold State.RefusedLaunch
  split
  case isTrue hr => simpa [hr] using eq_comm
  case isFalse hr =>
    split
    case isTrue hheld =>
      have hb : s.busy = true := (Bool.and_eq_true_iff.1 hheld).1
      simp [hr, hb]
    case isFalse hfree =>
      rw [Option.some.injEq, State.writeLoc_busError]
      have hbusy : l = .reg .cmd → s.busy = false := by
        rintro rfl
        simpa [Loc.writesWhileBusy] using hfree
      tauto

theorem State.hostTxn_busError_same {s s' : State} {t : Txn} (h : s.hostTxn t = some (s', .busError)) : s' = s := by
  cases t with
  | read addr => exact (State.hostRead_busError.1 h).1
  | write addr d =>
    by_cases hres : misaligned addr = true ∨ locate addr = none
    · rw [State.hostTxn, s.hostWrite_reserved hres] at h
      cases h; rfl
    · obtain ⟨ha, l, hl⟩ := exists_locate hres
      exact ((State.hostWrite_located_busError ha hl d).1 h).1

theorem State.hostRead_busError_iff (s : State) (addr : Addr) :
    (∃ s', s.hostRead addr = some (s', .busError)) ↔
      addr.toNat % 4 ≠ 0 ∨ (0x0048 ≤ addr.toNat ∧ addr.toNat < 0x2000) ∨ 0xE000 ≤ addr.toNat := by
  simp only [State.hostRead_busError, exists_eq_left, misaligned_or_reserved_iff]

theorem State.hostWrite_busError_iff (s : State) (addr : Addr) (d : Word) :
    (∃ s', s.hostWrite addr d = some (s', .busError)) ↔
      addr.toNat % 4 ≠ 0 ∨ (0x0048 ≤ addr.toNat ∧ addr.toNat < 0x2000) ∨ 0xE000 ≤ addr.toNat ∨
        addr.toNat ∈ [0x00, 0x0C, 0x10, 0x1C, 0x20, 0x40, 0x44] ∨
        (addr.toNat = 0x14 ∧ s.busy = false ∧ s.err = true ∧ d ≠ clrerrWord) := by
  by_cases hres : misaligned addr = true ∨ locate addr = none
  · have hlisted := misaligned_or_reserved_iff.1 hres
    exact iff_of_true ⟨s, s.hostWrite_reserved hres d⟩ (by tauto)
  · obtain ⟨ha, l, hl⟩ := exists_locate hres
    have hunlisted := mt misaligned_or_reserved_iff.2 hres
    simp only [State.hostWrite_located_busError ha hl, exists_eq_left, State.RefusedLaunch, Loc.readOnly_iff ha hl,
      Loc.eq_cmd_iff ha hl]
    tauto

/-- Settles O15: the causes come from the address checks, the read-only registers and the launch rule, in this order. -/
theorem busErrorHasExactlyItsCausesAndNoEffect : Obligations.BusErrorHasExactlyItsCausesAndNoEffect := by
  intro s t
  refine ⟨fun s' => State.hostTxn_busError_same, ?_⟩
  cases t with
  | read addr => exact s.hostRead_busError_iff addr
  | write addr d => exact s.hostWrite_busError_iff addr d

/-! ## The BUSY hold -/

theorem State.hostRead_held_iff {s : State} (hb : s.busy = true) (addr : Addr) :
    s.hostRead addr = none ↔ addr.toNat % 4 = 0 ∧ addr.toNat ∉ [0x00, 0x04, 0x08, 0x0C, 0x10] ∧
      (addr.toNat < 0x0048 ∨ (0x2000 ≤ addr.toNat ∧ addr.toNat < 0xE000)) := by
  by_cases hres : misaligned addr = true ∨ locate addr = none
  · rw [s.hostRead_reserved hres]
    rw [misaligned_or_reserved_iff] at hres
    exact iff_of_false nofun (by omega)
  · obtain ⟨ha, l, hl⟩ := exists_locate hres
    rw [misaligned_or_reserved_iff] at hres
    rw [← Loc.readsWhileBusy_iff ha hl]
    have haddr : addr.toNat % 4 = 0 ∧ (addr.toNat < 0x0048 ∨ (0x2000 ≤ addr.toNat ∧ addr.toNat < 0xE000)) := by omega
    simp [State.hostRead, ha, hl, hb, haddr]

theorem State.hostWrite_held_iff {s : State} (hb : s.busy = true) (addr : Addr) (d : Word) :
    s.hostWrite addr d = none ↔
      addr.toNat % 4 = 0 ∧ addr.toNat ∉ [0x00, 0x04, 0x0C, 0x10, 0x1C, 0x20, 0x40, 0x44] ∧
        (addr.toNat < 0x0048 ∨ (0x2000 ≤ addr.toNat ∧ addr.toNat < 0xE000)) := by
  by_cases hres : misaligned addr = true ∨ locate addr = none
  · rw [s.hostWrite_reserved hres]
    rw [misaligned_or_reserved_iff] at hres
    exact iff_of_false nofun (by omega)
  · obtain ⟨ha, l, hl⟩ := exists_locate hres
    rw [misaligned_or_reserved_iff] at hres
    have hclass : addr.toNat ∈ [0x00, 0x04, 0x0C, 0x10, 0x1C, 0x20, 0x40, 0x44] ↔
        l.readOnly = true ∨ l.writesWhileBusy = true := by
      rw [Loc.readOnly_iff ha hl, Loc.writesWhileBusy_iff ha hl]
      simp only [List.mem_cons]
      tauto
    have haddr : addr.toNat % 4 = 0 ∧ (addr.toNat < 0x0048 ∨ (0x2000 ≤ addr.toNat ∧ addr.toNat < 0xE000)) := by omega
    rw [hclass, State.hostWrite_located ha hl, hb]
    cases l.readOnly <;> cases l.writesWhileBusy <;> simp [haddr]

/-- The completion step always answers a next state, in one of the ways a command can end. -/
theorem State.runCommand_next (s : State) : ∃ u, s.runCommand = .next u ∧ s.Completes u := by
  unfold State.runCommand
  cases decode s.fetchCommand with
  | error d => exact ⟨_, rfl, .error _⟩
  | ok i =>
    obtain ⟨r, hr⟩ := exec_eq_finish i s
    obtain ⟨u, hu⟩ := s.finish_next r
    have hnext : exec i s = .next u := hr.trans hu
    exact ⟨u, hnext, exec_completes hnext⟩

theorem State.Completes.busy {s t : State} (h : s.Completes t) : t.busy = false := by
  cases h <;> rfl

theorem State.Completes.agenda {s t : State} (h : s.Completes t) : t.agenda = s.agenda := by
  cases h with
  | error | config | cleared => rfl
  | data u hu => rw [State.complete_agenda, hu.frame]

/-- With a held transaction outstanding the engine moves, and the transaction stays the next to be performed. -/
theorem step_of_held {s : State} {t : Txn} {rest : List Event} (hb : s.busy = true) (hheld : s.hostTxn t = none)
    (ha : s.agenda = .host t :: rest) :
    step s = s.runCommand ∧ ∃ u, step s = .next u ∧ u.busy = false ∧ u.agenda = .host t :: rest := by
  have hstep : step s = s.runCommand := by simp [step, ha, State.hostTurn, hheld, State.engineStep, hb]
  obtain ⟨u, hu, hcomp⟩ := s.runCommand_next
  exact ⟨hstep, u, hstep.trans hu, hcomp.busy, hcomp.agenda.trans ha⟩

/-- Settles O21: the hold comes after the address checks, and a completion step leaves the agenda. -/
theorem busyHoldsEverythingElse : Obligations.BusyHoldsEverythingElse := by
  intro s t hb
  refine ⟨?_, fun hheld rest ha => step_of_held hb hheld ha⟩
  cases t with
  | read addr => exact State.hostRead_held_iff hb addr
  | write addr d => exact State.hostWrite_held_iff hb addr d

/-! ## Completed transactions -/

/-- While BUSY a transaction that completes leaves the state or writes CTRL. -/
theorem State.hostTxn_busy {s s' : State} {t : Txn} {r : Response} (hb : s.busy = true)
    (h : s.hostTxn t = some (s', r)) : s' = s ∨ ∃ d, s' = s.writeCtrl d := by
  cases t with
  | read addr =>
    rw [State.hostTxn] at h
    obtain ⟨he, -⟩ | ⟨he, -⟩ | ⟨l, -, he⟩ := s.hostRead_cases addr <;> rw [he] at h <;> cases h <;> exact .inl rfl
  | write addr d =>
    rw [State.hostTxn] at h
    obtain he | ⟨he, -⟩ | ⟨l, -, -, hctrl, he⟩ := s.hostWrite_cases addr d
    · rw [he] at h; cases h; exact .inl rfl
    · rw [he] at h; cases h
    · rw [he, hctrl hb] at h; cases h; exact .inr ⟨d, rfl⟩

/-- Settles O22: the host's turn is the transaction, and while BUSY the only write that completes is one to CTRL. -/
theorem completedTransactionIsOneStep : Obligations.CompletedTransactionIsOneStep := by
  intro s t s' r rest ha ht
  refine ⟨by simp [step, ha, State.hostTurn, ht], fun hb => ?_⟩
  obtain rfl | ⟨d, rfl⟩ := State.hostTxn_busy hb ht <;> rfl

end Sys2Proof.Machine
end
section
/-! A memory word outside the input set of a command does not reach it (`60_exceptions.md` R131). First each network reads
the entries 1 to L - 1 of its table alone (`43_root_table.md` R97); then two states that differ in one word of the memories
are followed through the checks, reads and writes of each operand form. -/

namespace Sys2Proof.Machine

/-! ## Networks read the entries 1 to L - 1 of their table -/

/-- Two tables agree on the entries of a network of length `L`. -/
def SameEntries {α : Type} (L : Nat) (root root' : Nat → α) : Prop := ∀ j, 1 ≤ j → j < L → root' j = root j

theorem SameEntries.mono {α : Type} {L L' : Nat} {root root' : Nat → α} (h : SameEntries L root root') (hle : L' ≤ L) :
    SameEntries L' root root' := fun j h1 h2 => h j h1 (h2.trans_le hle)

section
variable {α : Type} {K : ElemOps α} {root root' : Nat → α} {f g : List α} {k m t : Nat}

theorem fwdStage_congr (hm : 1 ≤ m) (h : SameEntries (2 * m) root root') (a : List α) :
    fwdStage K root' m t a = fwdStage K root m t a :=
  List.foldl_ext _ _ _ fun b i hi => by
    have hlt := List.mem_range.1 hi
    rw [h (m + i) (by omega) (by omega)]

theorem invStage_congr (hm : 1 ≤ m) (h : SameEntries (2 * m) root root') (a : List α) :
    invStage K root' m t a = invStage K root m t a :=
  List.foldl_ext _ _ _ fun b i hi => by
    have hlt := List.mem_range.1 hi
    rw [h (m + i) (by omega) (by omega)]

/-- A forward network runs its stages up to the group count `m` * 2^k. -/
theorem fwdStages_congr (hm : 1 ≤ m) (h : SameEntries (m * 2 ^ k) root root') (a : List α) :
    fwdStages K root' k t m a = fwdStages K root k t m a := by
  induction k generalizing t m a with
  | zero => rfl
  | succ k ih =>
    have hnext : m * 2 ^ (k + 1) = 2 * m * 2 ^ k := by ring
    rw [hnext] at h
    rw [fwdStages, fwdStages, fwdStage_congr hm (h.mono (Nat.le_mul_of_pos_right _ (by positivity))), ih (by omega) h]

/-- An inverse network runs its stages down from the group count 2^k. -/
theorem invStages_congr (h : SameEntries (2 ^ k) root root') (a : List α) :
    invStages K root' k t (2 ^ k) a = invStages K root k t (2 ^ k) a := by
  induction k generalizing t a with
  | zero => rfl
  | succ k ih =>
    have hhalf : 2 ^ (k + 1) / 2 = 2 ^ k := by rw [pow_succ, Nat.mul_div_cancel _ two_pos]
    rw [pow_succ'] at h
    rw [invStages, invStages, hhalf, invStage_congr Nat.one_le_two_pow h, ih (h.mono (by omega))]

theorem mergeNttFrom_congr {h i : Nat} (hroot : ∀ j, i ≤ j → j < i + f.length → root' (h + j) = root (h + j)) :
    mergeNttFrom K root' h i f g = mergeNttFrom K root h i f g := by
  induction f generalizing g i with
  | nil => simp [mergeNttFrom]
  | cons x xs ih =>
    cases g with
    | nil => simp [mergeNttFrom]
    | cons y ys =>
      rw [List.length_cons] at hroot
      have hrest := ih (g := ys) (i := i + 1) fun j h1 h2 => hroot j (by omega) (by omega)
      simp only [mergeNttFrom, hroot i le_rfl (by omega), hrest]

theorem splitNttFrom_congr {inv2 h i : Nat}
    (hroot : ∀ j, i ≤ j → j < i + f.length / 2 → root' (h + j) = root (h + j)) :
    splitNttFrom inv2 K root' h i f = splitNttFrom inv2 K root h i f := by
  induction f using evens.induct generalizing i with
  | case1 => rfl
  | case2 => rfl
  | case3 x y xs ih =>
    simp only [List.length_cons] at hroot
    have hrest := ih (i := i + 1) fun j h1 h2 => hroot j (by omega) (by omega)
    simp only [splitNttFrom, hroot i le_rfl (by omega), hrest]

theorem nttRec_congr (hl : f.length = 2 ^ k) (h : SameEntries (2 ^ k) root root') :
    nttRec K root' k f = nttRec K root k f := by
  induction k, f using nttRec.induct K root with
  | case1 => rfl
  | case2 f => simp only [nttRec, h 1 le_rfl (by norm_num)]
  | case3 k f ihE ihO =>
    have htwo : 2 ^ (k + 2) = 2 ^ (k + 1) + 2 ^ (k + 1) := by rw [pow_succ]; omega
    have he : (splitSeq f).1.length = 2 ^ (k + 1) := (evens_length f).trans (by omega)
    have ho : (splitSeq f).2.length = 2 ^ (k + 1) := (odds_length f).trans (by omega)
    have hhalf : SameEntries (2 ^ (k + 1)) root root' := h.mono (by omega)
    have hlen := nttRec_length (K := K) root (by omega) he
    have hpos : 0 < 2 ^ (k + 1) := by positivity
    rw [nttRec, nttRec, ihE he hhalf, ihO ho hhalf]
    exact mergeNttFrom_congr fun j _ hj => h _ (by omega) (by omega)

theorem inttRec_congr {inv2 : Nat} (hl : f.length = 2 ^ k) (h : SameEntries (2 ^ k) root root') :
    inttRec inv2 K root' k f = inttRec inv2 K root k f := by
  induction k, f using inttRec.induct inv2 K root with
  | case1 => rfl
  | case2 f => simp only [inttRec, h 1 le_rfl (by norm_num)]
  | case3 k f ihE ihO =>
    have htwo : 2 ^ (k + 2) = 2 ^ (k + 1) + 2 ^ (k + 1) := by rw [pow_succ]; omega
    have hpos : 0 < 2 ^ (k + 1) := by positivity
    obtain ⟨hlE, hlO⟩ := splitNttFrom_length (K := K) inv2 root (f.length / 2) 0 f
    have hhalf : SameEntries (2 ^ (k + 1)) root root' := h.mono (by omega)
    have hsplit : splitNtt inv2 K root' f = splitNtt inv2 K root f :=
      splitNttFrom_congr fun j _ hj => h _ (by omega) (by omega)
    rw [inttRec, inttRec, hsplit, ihE (hlE.trans (by omega)) hhalf, ihO (hlO.trans (by omega)) hhalf]

end

/-- A network reads no other entry of its table, on the sequences a command hands it. -/
def ReadsEntries (net : {α : Type} → ElemOps α → (Nat → α) → Nat → List α → List α) : Prop :=
  ∀ {α : Type} (K : ElemOps α) {root root' : Nat → α} {k : Nat} {f : List α}, f.length = 2 ^ k →
    SameEntries (2 ^ k) root root' → net K root' k f = net K root k f

theorem nttCore_readsEntries : ReadsEntries nttCore := fun _ _ _ _ f _ h =>
  fwdStages_congr le_rfl (by rwa [one_mul]) f

theorem inttCore_readsEntries (ninv : Nat) : ReadsEntries (inttCore ninv) := fun _ _ _ _ f _ h =>
  congrArg (List.map _) (invStages_congr h f)

theorem nttRec_readsEntries : ReadsEntries nttRec := fun _ => nttRec_congr

theorem inttRec_readsEntries (inv2 : Nat) : ReadsEntries (inttRec inv2) := fun _ => inttRec_congr

section
variable {root root' : Nat → Nat} {k m t : Nat}

theorem foldlM_ext {β γ : Type} {f g : β → γ → Except CmdError β} {l : List γ} (h : ∀ b, ∀ c ∈ l, f b c = g b c) (b : β) :
    l.foldlM f b = l.foldlM g b := by
  induction l generalizing b with
  | nil => rfl
  | cons c l ih =>
    rw [List.foldlM_cons, List.foldlM_cons, h b c List.mem_cons_self]
    exact congrArg _ (funext (ih fun b' c' hc' => h b' c' (List.mem_cons_of_mem c hc')))

theorem lazyFwdStage_congr {KQ : Nat} (hm : 1 ≤ m) (h : SameEntries (2 * m) root root') (a : List Nat) :
    lazyFwdStage KQ root' m t a = lazyFwdStage KQ root m t a :=
  foldlM_ext (fun b i hi => by
    have hlt := List.mem_range.1 hi
    rw [h (m + i) (by omega) (by omega)]) a

theorem lazyInvStage_congr {KQ : Nat} (hm : 1 ≤ m) (h : SameEntries (2 * m) root root') (a : List Nat) :
    lazyInvStage KQ root' m t a = lazyInvStage KQ root m t a :=
  foldlM_ext (fun b i hi => by
    have hlt := List.mem_range.1 hi
    rw [h (m + i) (by omega) (by omega)]) a

theorem lazyFwdStages_congr {q l : Nat} (hm : 1 ≤ m) (h : SameEntries (m * 2 ^ k) root root') (a : List Nat) :
    lazyFwdStages q root' k t m l a = lazyFwdStages q root k t m l a := by
  induction k generalizing t m l a with
  | zero => rfl
  | succ k ih =>
    have hnext : m * 2 ^ (k + 1) = 2 * m * 2 ^ k := by ring
    rw [hnext] at h
    simp only [lazyFwdStages, lazyFwdStage_congr hm (h.mono (Nat.le_mul_of_pos_right _ (by positivity))),
      ih (by omega) h]

theorem lazyInvStages_congr {q l : Nat} (h : SameEntries (2 ^ k) root root') (a : List Nat) :
    lazyInvStages q root' k t (2 ^ k) l a = lazyInvStages q root k t (2 ^ k) l a := by
  induction k generalizing t l a with
  | zero => rfl
  | succ k ih =>
    have hhalf : 2 ^ (k + 1) / 2 = 2 ^ k := by rw [pow_succ, Nat.mul_div_cancel _ two_pos]
    rw [pow_succ'] at h
    simp only [lazyInvStages, hhalf, lazyInvStage_congr Nat.one_le_two_pow h, ih (h.mono (by omega))]

theorem lazyFwd_congr {q : Nat} (h : SameEntries (2 ^ k) root root') (a : List Nat) :
    lazyFwd q root' k a = lazyFwd q root k a := by
  rw [lazyFwd, lazyFwd, lazyFwdStages_congr le_rfl (by rwa [one_mul])]

theorem lazyInv_congr {q ninv : Nat} (h : SameEntries (2 ^ k) root root') (a : List Nat) :
    lazyInv q ninv root' k a = lazyInv q ninv root k a := by
  rw [lazyInv, lazyInv, lazyInvStages_congr h]

end

/-! ## States that differ in one word of the memories -/

/-- `s` with other memories. -/
def State.withMem (s : State) (m : Memory) : State := { s with mem := m }

/-- With the memories `m` in it, `s` reads as before but for word `j` of memory `M`. -/
def State.SameBut (s : State) (M : MemId) (j : Nat) (m : Memory) : Prop :=
  ∀ (M' : MemId) (j' : Nat), j' < Config.nmax → (M' ≠ M ∨ j' ≠ j) → (s.withMem m).memWord M' j' = s.memWord M' j'

/-- Two results of one command, with and without the other word: the same error, or states that differ in that word. -/
inductive ResultsAlike (M : MemId) (j : Nat) : Except CmdError State → Except CmdError State → Prop where
  | error (e : CmdError) : ResultsAlike M j (.error e) (.error e)
  | ok {u : State} {m : Memory} : u.SameBut M j m → ResultsAlike M j (.ok u) (.ok (u.withMem m))

section
variable {s t u : State} {M B : MemId} {j : Nat} {m : Memory}

theorem State.memWord_setMemSeq_other (s : State) {vs : List Nat} {M' : MemId} {i : Nat} (hn : vs.length ≤ Config.nmax)
    (hi : i < Config.nmax) (h : M' ≠ B ∨ vs.length ≤ i) : (s.setMemSeq B vs).memWord M' i = s.memWord M' i := by
  refine s.wordAt_setMemSeq_other B vs _ ?_
  unfold MemId.wordAddr
  by_cases hM : M' = B
  · subst hM
    have hle : vs.length ≤ i := h.resolve_left fun hne => hne rfl
    omega
  · have := MemId.base_apart hM
    omega

/-- The same words written to both states leave them different in that word at most. -/
theorem State.SameBut.setMemSeq (h : s.SameBut M j m) {vs : List Nat} (hn : vs.length ≤ Config.nmax) :
    (s.setMemSeq B vs).SameBut M j (memStoreSeq m B.base vs) := fun M' j' hj' hne => by
  change ((s.withMem m).setMemSeq B vs).memWord M' j' = _
  by_cases hin : M' = B ∧ j' < vs.length
  · obtain ⟨rfl, hlt⟩ := hin
    rw [State.memWord_setMemSeq_same _ _ _ _ hlt, State.memWord_setMemSeq_same _ _ _ _ hlt]
  · have hout : M' ≠ B ∨ vs.length ≤ j' := (not_and_or.1 hin).imp_right Nat.le_of_not_lt
    rw [State.memWord_setMemSeq_other _ hn hj' hout, State.memWord_setMemSeq_other _ hn hj' hout, h M' j' hj' hne]

/-- A check or an operand that both states answer alike, before the rest. -/
theorem ResultsAlike.bind {α : Type} {r : Except CmdError α} {f f' : α → Except CmdError State}
    (h : ∀ a, r = .ok a → ResultsAlike M j (f a) (f' a)) : ResultsAlike M j (r >>= f) (r >>= f') := by
  cases r with
  | error e => exact .error e
  | ok a => exact h a rfl

theorem ResultsAlike.finish {r r' : Except CmdError State} (hs : s.SameBut M j m) (hr : ResultsAlike M j r r')
    (h : s.finish r = .next t) : ∃ m', (s.withMem m).finish r' = .next (t.withMem m') ∧ t.SameBut M j m' := by
  cases hr with
  | error e => cases h; exact ⟨m, rfl, hs⟩
  | ok hu => cases h; exact ⟨_, rfl, hu⟩

/-! ## The scalar forms and SETMOD read no memory -/

theorem State.fpBinary_alike (hs : s.SameBut M j m) (f : Modulus → Nat → Nat → Nat) :
    ResultsAlike M j (s.fpBinary f) ((s.withMem m).fpBinary f) :=
  .bind fun _ _ => .bind fun _ _ => .ok (u := s.setRes _) hs

theorem State.fpUnary_alike (hs : s.SameBut M j m) {g : State → Except CmdError Unit} (hg : g (s.withMem m) = g s)
    (f : Modulus → Nat → Except CmdError Nat) : ResultsAlike M j (s.fpUnary g f) ((s.withMem m).fpUnary g f) := by
  unfold State.fpUnary
  rw [hg]
  exact .bind fun _ _ => .bind fun _ _ => .bind fun _ _ => .bind fun r _ => .ok (u := s.setRes r) hs

theorem State.fp2Binary_alike (hs : s.SameBut M j m) (f : Modulus → Fp2 → Fp2 → Fp2) :
    ResultsAlike M j (s.fp2Binary f) ((s.withMem m).fp2Binary f) :=
  .bind fun _ _ => .bind fun _ _ => .bind fun _ _ => .ok (u := s.setResPair _) hs

theorem State.fp2Unary_alike (hs : s.SameBut M j m) (f : Modulus → Fp2 → Except CmdError Fp2) :
    ResultsAlike M j (s.fp2Unary f) ((s.withMem m).fp2Unary f) :=
  .bind fun _ _ => .bind fun _ _ => .bind fun _ _ => .bind fun r _ => .ok (u := s.setResPair r) hs

/-! ## The vector forms read their input sets -/

/-- With the memories `m` in it, `s` reads the words `M[lo]`, …, `M[hi - 1]` as before. -/
def State.SameWords (s : State) (m : Memory) (M : MemId) (lo hi : Nat) : Prop :=
  ∀ i, lo ≤ i → i < hi → (s.withMem m).memWord M i = s.memWord M i

theorem State.SameWords.memWords {lo hi : Nat} (h : s.SameWords m M lo hi) :
    (s.withMem m).memWords M lo (hi - lo) = s.memWords M lo (hi - lo) :=
  List.map_congr_left fun i hi => h _ (by omega) (by have := List.mem_range.1 hi; omega)

theorem State.SameWords.bufWords {n : Nat} (h : s.SameWords m M 0 n) : (s.withMem m).memWords M 0 n = s.memWords M 0 n :=
  h.memWords

theorem State.SameWords.memNat {lo hi i : Nat} (h : s.SameWords m M lo hi) (h1 : lo ≤ i) (h2 : i < hi) :
    (s.withMem m).memNat M i = s.memNat M i := congrArg BitVec.toNat (h i h1 h2)

theorem State.SameWords.bufFp {n : Nat} (h : s.SameWords m .buf0 0 n) : (s.withMem m).bufFp n = s.bufFp n :=
  List.map_congr_left fun i hi => h.memNat (Nat.zero_le i) (List.mem_range.1 hi)

theorem State.SameWords.bufFp2 {n : Nat} (h0 : s.SameWords m .buf0 0 n) (h1 : s.SameWords m .buf1 0 n) :
    (s.withMem m).bufFp2 n = s.bufFp2 n :=
  List.map_congr_left fun i hi =>
    Prod.ext (h0.memNat (Nat.zero_le i) (List.mem_range.1 hi)) (h1.memNat (Nat.zero_le i) (List.mem_range.1 hi))

theorem State.SameWords.entries {L : Nat} (h : s.SameWords m M 1 L) :
    SameEntries L (s.memNat M) ((s.withMem m).memNat M) := fun _ => h.memNat

theorem State.SameWords.pairEntries {M0 M1 : MemId} {L : Nat} (h0 : s.SameWords m M0 1 L) (h1 : s.SameWords m M1 1 L) :
    SameEntries L (s.memPair M0 M1) ((s.withMem m).memPair M0 M1) := fun _ h h' => Prod.ext (h0.memNat h h') (h1.memNat h h')

@[simp] theorem State.withMem_lift (s : State) (m : Memory) : (s.withMem m).lift = s.lift := rfl
@[simp] theorem State.withMem_modulus (s : State) (m : Memory) : (s.withMem m).modulus = s.modulus := rfl
@[simp] theorem State.withMem_logL (s : State) (m : Memory) (k : Nat) : (s.withMem m).logL k = s.logL k := rfl
@[simp] theorem State.withMem_liftRoot (s : State) (m : Memory) : (s.withMem m).liftRoot = s.liftRoot := rfl

section
variable {k : Nat} {net : {α : Type} → ElemOps α → (Nat → α) → Nat → List α → List α}

/-- With the memories `m` in it, `s` reads the input words of a forward transform as before. -/
structure State.SameForward (s : State) (m : Memory) (k : Nat) : Prop where
  buf0 : s.SameWords m .buf0 0 (2 ^ k)
  root0 : s.SameWords m .root0 1 (2 ^ s.logL k)
  root1 : s.lift = true → s.SameWords m .root1 1 (2 ^ s.logL k)

/-- With the memories `m` in it, `s` reads the input words of an inverse transform as before. -/
structure State.SameInverse (s : State) (m : Memory) (k : Nat) : Prop where
  buf0 : s.SameWords m .buf0 0 (2 ^ s.logL k)
  buf1 : s.lift = true → s.SameWords m .buf1 0 (2 ^ s.logL k)
  iroot0 : s.SameWords m .iroot0 1 (2 ^ s.logL k)
  iroot1 : s.lift = true → s.SameWords m .iroot1 1 (2 ^ s.logL k)

/-- A word that the command reads is not the one in which the states differ. -/
theorem State.SameBut.of_readsWord {i : Instr} (hs : s.SameBut M j m) (hread : ¬s.readsWord i M j) {M' : MemId} {j' : Nat}
    (hj : j' < Config.nmax) (h : s.readsWord i M' j') : (s.withMem m).memWord M' j' = s.memWord M' j' := by
  refine hs M' j' hj (not_and_or.1 ?_)
  rintro ⟨rfl, rfl⟩
  exact hread h

/-- The lengths that pass the check are those of the memories. -/
theorem State.LengthOk.le_nmax (hinv : s.Inv) (hk : s.LengthOk k) : 2 ^ s.logL k ≤ 2 ^ k ∧ 2 ^ k ≤ Config.nmax :=
  ⟨Nat.pow_le_pow_right two_pos hk.one_le_logL.2, two_pow_le_nmax (hk.2.trans hinv.maxLog_le)⟩

theorem State.SameBut.sameForward (hs : s.SameBut M j m) (hinv : s.Inv) (hk : s.LengthOk k)
    (hread : ¬s.readsWord (.ntti k) M j) : s.SameForward m k := by
  obtain ⟨hle, hmax⟩ := hk.le_nmax hinv
  constructor
  case buf0 => exact fun i _ hi => hs.of_readsWord hread (by omega) (.inl ⟨rfl, hi⟩)
  case root0 => exact fun i h1 hi => hs.of_readsWord hread (by omega) (.inr (.inl ⟨rfl, h1, hi⟩))
  case root1 => exact fun hl i h1 hi => hs.of_readsWord hread (by omega) (.inr (.inr ⟨hl, rfl, h1, hi⟩))

theorem State.SameBut.sameInverse (hs : s.SameBut M j m) (hinv : s.Inv) (hk : s.LengthOk k)
    (hread : ¬s.readsWord (.intti k) M j) : s.SameInverse m k := by
  obtain ⟨hle, hmax⟩ := hk.le_nmax hinv
  constructor
  case buf0 => exact fun i _ hi => hs.of_readsWord hread (by omega) (.inl ⟨rfl, hi⟩)
  case buf1 => exact fun hl i _ hi => hs.of_readsWord hread (by omega) (.inr (.inl ⟨hl, rfl, hi⟩))
  case iroot0 => exact fun i h1 hi => hs.of_readsWord hread (by omega) (.inr (.inr (.inl ⟨rfl, h1, hi⟩)))
  case iroot1 => exact fun hl i h1 hi => hs.of_readsWord hread (by omega) (.inr (.inr (.inr ⟨hl, rfl, h1, hi⟩)))

theorem State.logL_direct (hl : ¬s.lift = true) (k : Nat) : s.logL k = k := if_neg hl

theorem State.Inv.not_lift_of_lazy (hinv : s.Inv) (hv : s.cfgValid = true) (hq : s.q.toNat = Config.lazyQ) :
    ¬s.lift = true := fun hl => by
  have hmod := hinv.mod_four_of_lift hv hl
  rw [hq] at hmod
  exact absurd hmod (by decide)

theorem State.SameForward.forwardInputs (h : s.SameForward m k) : (s.withMem m).forwardInputs k = s.forwardInputs k := by
  unfold State.forwardInputs
  by_cases hl : s.lift = true
  · simp only [State.withMem_lift, hl, if_true, State.withMem_logL, h.buf0.bufWords, h.root0.memWords,
      (h.root1 hl).memWords]
    rfl
  · have hroot := h.root0.memWords
    rw [State.logL_direct hl] at hroot
    simp only [State.withMem_lift, hl, Bool.false_eq_true, if_false, h.buf0.bufWords, hroot]

theorem State.SameInverse.inverseInputs (h : s.SameInverse m k) : (s.withMem m).inverseInputs k = s.inverseInputs k := by
  unfold State.inverseInputs
  by_cases hl : s.lift = true
  · simp only [State.withMem_lift, hl, if_true, State.withMem_logL, h.buf0.bufWords, (h.buf1 hl).bufWords,
      h.iroot0.memWords, (h.iroot1 hl).memWords]
    rfl
  · have hbuf := h.buf0.bufWords
    have hroot := h.iroot0.memWords
    rw [State.logL_direct hl] at hbuf hroot
    simp only [State.withMem_lift, hl, Bool.false_eq_true, if_false, hbuf, hroot]

theorem State.forwardResult_alike (hinv : s.Inv) (hs : s.SameBut M j m) (hk : s.LengthOk k) (h : s.SameForward m k)
    (hlen : KeepsLength net) (hnet : ReadsEntries net) :
    ResultsAlike M j (.ok (s.forwardResult k net)) (.ok ((s.withMem m).forwardResult k net)) := by
  obtain ⟨hle, hmax⟩ := hk.le_nmax hinv
  obtain ⟨hone, -⟩ := hk.one_le_logL
  unfold State.forwardResult
  by_cases hl : s.lift = true
  · have hlift := liftSeq_length s.modulus s.liftRoot (2 ^ s.logL k) (s.bufFp (2 ^ k))
    have hsame : net (fp2Ops s.modulus) (s.withMem m).rootFp2 _ _ = net _ s.rootFp2 _ _ :=
      hnet _ hlift (h.root0.pairEntries (h.root1 hl))
    have hsize : (net (fp2Ops s.modulus) s.rootFp2 _ _).length = _ := hlen _ _ hone hlift
    have hfits : ∀ c : Fp2 → Nat, ((net (fp2Ops s.modulus) s.rootFp2 _ _).map c).length ≤ Config.nmax := fun c => by
      rw [List.length_map, hsize]
      exact hle.trans hmax
    simp only [State.withMem_lift, hl, if_true, State.withMem_logL, State.withMem_modulus, State.withMem_liftRoot,
      h.buf0.bufFp, hsame]
    exact .ok ((hs.setMemSeq (hfits _)).setMemSeq (hfits _))
  · have hbuf := s.bufFp_length (2 ^ k)
    have hroot := h.root0.entries
    rw [State.logL_direct hl] at hroot hone
    have hsame : net (fpOps s.modulus) (s.withMem m).rootFp _ _ = net _ s.rootFp _ _ := hnet _ hbuf hroot
    have hsize : (net (fpOps s.modulus) s.rootFp _ _).length = _ := hlen _ _ hone hbuf
    simp only [State.withMem_lift, hl, Bool.false_eq_true, if_false, State.withMem_modulus, h.buf0.bufFp, hsame]
    exact .ok (hs.setMemSeq (hsize.trans_le hmax))

theorem State.inverseResult_alike (hinv : s.Inv) (hs : s.SameBut M j m) (hk : s.LengthOk k) (h : s.SameInverse m k)
    (hlen : KeepsLength net) (hnet : ReadsEntries net) :
    ResultsAlike M j (s.inverseResult k net) ((s.withMem m).inverseResult k net) := by
  obtain ⟨hle, hmax⟩ := hk.le_nmax hinv
  obtain ⟨hone, -⟩ := hk.one_le_logL
  unfold State.inverseResult
  by_cases hl : s.lift = true
  · have hbuf := s.bufFp2_length (2 ^ s.logL k)
    have hsame : net (fp2Ops s.modulus) (s.withMem m).irootFp2 _ _ = net _ s.irootFp2 _ _ :=
      hnet _ hbuf (h.iroot0.pairEntries (h.iroot1 hl))
    have hsize : (net (fp2Ops s.modulus) s.irootFp2 _ _).length = _ := hlen _ _ hone hbuf
    have hdouble : 2 * 2 ^ s.logL k = 2 ^ k := by
      rw [State.logL_lifted hl] at hone ⊢
      rw [← pow_succ', Nat.sub_add_cancel (by omega)]
    simp only [State.withMem_lift, hl, if_true, State.withMem_logL, State.withMem_modulus, State.withMem_liftRoot,
      h.buf0.bufFp2 (h.buf1 hl), hsame]
    refine .bind fun r hr => ?_
    obtain ⟨hr1, hr2⟩ := projectSeq_length hr
    exact .ok ((hs.setMemSeq (by omega)).setMemSeq (by omega))
  · have hbuf := s.bufFp_length (2 ^ k)
    have hread := h.buf0.bufFp
    have hroot := h.iroot0.entries
    rw [State.logL_direct hl] at hroot hread hone
    have hsame : net (fpOps s.modulus) (s.withMem m).irootFp _ _ = net _ s.irootFp _ _ := hnet _ hbuf hroot
    have hsize : (net (fpOps s.modulus) s.irootFp _ _).length = _ := hlen _ _ hone hbuf
    simp only [State.withMem_lift, hl, Bool.false_eq_true, if_false, State.withMem_modulus, hread, hsame]
    exact .ok (hs.setMemSeq (hsize.trans_le hmax))

theorem State.forward_alike (hinv : s.Inv) (hs : s.SameBut M j m) (hread : ¬s.readsWord (.ntti k) M j)
    (hlen : KeepsLength net) (hnet : ReadsEntries net) :
    ResultsAlike M j (s.forward k net) ((s.withMem m).forward k net) := by
  refine .bind fun _ _ => .bind fun _ hlength => ?_
  have hk := State.requireLength_ok.1 hlength
  have hsame := hs.sameForward hinv hk hread
  rw [hsame.forwardInputs]
  exact .bind fun _ _ => State.forwardResult_alike hinv hs hk hsame hlen hnet

theorem State.inverse_alike {extra : List Word} (hinv : s.Inv) (hs : s.SameBut M j m)
    (hread : ¬s.readsWord (.intti k) M j) (hlen : KeepsLength net) (hnet : ReadsEntries net) :
    ResultsAlike M j (s.inverse k extra net) ((s.withMem m).inverse k extra net) := by
  refine .bind fun _ _ => .bind fun _ hlength => ?_
  have hk := State.requireLength_ok.1 hlength
  have hsame := hs.sameInverse hinv hk hread
  rw [hsame.inverseInputs]
  exact .bind fun _ _ => State.inverseResult_alike hinv hs hk hsame hlen hnet

/-- A lazy transform that reads its words comes after the checks that leave the direct configuration alone. -/
theorem State.lazyTransform_alike {inputs inputs' : List Word} {lazyNet lazyNet' : List Nat → Except CmdError (List Nat)}
    (hinv : s.Inv) (hs : s.SameBut M j m) (hlen : ∀ {a b}, lazyNet a = .ok b → b.length = a.length)
    (hsame : s.LengthOk k → ¬s.lift = true →
      s.SameWords m .buf0 0 (2 ^ k) ∧ inputs' = inputs ∧ ∀ a, lazyNet' a = lazyNet a) :
    ResultsAlike M j (s.lazyTransform k inputs lazyNet) ((s.withMem m).lazyTransform k inputs' lazyNet') := by
  refine .bind fun _ hv => .bind fun _ hq => .bind fun _ hlength => ?_
  have hk := State.requireLength_ok.1 hlength
  have hl := hinv.not_lift_of_lazy (State.requireConfigured_ok.1 hv) (State.requireLazyModulus_ok.1 hq)
  obtain ⟨hbuf, hin, hnet⟩ := hsame hk hl
  rw [hin, hbuf.bufFp, hnet]
  refine .bind fun _ _ => .bind fun c hc => .ok (hs.setMemSeq ?_)
  rw [hlen hc, s.bufFp_length]
  exact (hk.le_nmax hinv).2

theorem State.SameForward.lazy (h : s.SameForward m k) (hl : ¬s.lift = true) :
    s.SameWords m .buf0 0 (2 ^ k) ∧ (s.withMem m).lazyForwardInputs k = s.lazyForwardInputs k ∧
      ∀ a, lazyFwd (s.withMem m).q.toNat (s.withMem m).rootFp k a = lazyFwd s.q.toNat s.rootFp k a := by
  have hroot := h.root0
  rw [State.logL_direct hl] at hroot
  refine ⟨h.buf0, ?_, fun a => lazyFwd_congr hroot.entries a⟩
  simp only [State.lazyForwardInputs, h.buf0.bufWords, hroot.memWords]

theorem State.SameInverse.lazy (h : s.SameInverse m k) (hl : ¬s.lift = true) :
    s.SameWords m .buf0 0 (2 ^ k) ∧ (s.withMem m).lazyInverseInputs k = s.lazyInverseInputs k ∧
      ∀ a, lazyInv (s.withMem m).q.toNat (s.withMem m).ninv.toNat (s.withMem m).irootFp k a =
        lazyInv s.q.toNat s.ninv.toNat s.irootFp k a := by
  have hbuf := h.buf0
  have hroot := h.iroot0
  rw [State.logL_direct hl] at hbuf hroot
  refine ⟨hbuf, ?_, fun a => lazyInv_congr hroot.entries a⟩
  simp only [State.lazyInverseInputs, hbuf.bufWords, hroot.memWords]
  rfl

end

/-! ## The commands -/

/-- A command does the same, but for that word, in states that differ in a word it does not read. -/
theorem exec_alike {i : Instr} (hinv : s.Inv) (hs : s.SameBut M j m) (hread : ¬s.readsWord i M j)
    (h : exec i s = .next t) : ∃ m', exec i (s.withMem m) = .next (t.withMem m') ∧ t.SameBut M j m' := by
  cases i with
  | nop => exact (ResultsAlike.ok hs).finish hs h
  | clrerr => exact (ResultsAlike.ok (u := s.leaveError) hs).finish hs h
  | setmod => exact (ResultsAlike.bind fun e _ => .ok (u := s.setConfig e _ _) hs).finish hs h
  | fadd | fsub | fmul => exact (State.fpBinary_alike hs _).finish hs h
  | finv | fsqrt => exact (State.fpUnary_alike hs rfl _).finish hs h
  | f2add | f2sub | f2mul => exact (State.fp2Binary_alike hs _).finish hs h
  | f2inv | f2sqrt | f2neg => exact (State.fp2Unary_alike hs _).finish hs h
  | ntti k => exact (State.forward_alike hinv hs hread nttCore_keepsLength nttCore_readsEntries).finish hs h
  | nttr k => exact (State.forward_alike hinv hs hread nttRec_keepsLength nttRec_readsEntries).finish hs h
  | intti k =>
    exact (State.inverse_alike hinv hs hread (inttCore_keepsLength _) (inttCore_readsEntries _)).finish hs h
  | inttr k => exact (State.inverse_alike hinv hs hread (inttRec_keepsLength _) (inttRec_readsEntries _)).finish hs h
  | nttil k =>
    exact (State.lazyTransform_alike hinv hs lazyFwd_length fun hk => (hs.sameForward hinv hk hread).lazy).finish hs h
  | inttil k =>
    exact (State.lazyTransform_alike hinv hs lazyInv_length fun hk => (hs.sameInverse hinv hk hread).lazy).finish hs h

end

/-- Settles O60: the write of a word leaves the others as they were, so the command ends alike but for that word. -/
theorem commandsIgnoreTheWordsTheyDoNotRead : Obligations.CommandsIgnoreTheWordsTheyDoNotRead := by
  intro i M j s t w hinv hj hread h
  have hs : s.SameBut M j (memStoreWord s.mem (M.wordAddr j) w) := fun M' j' hj' hne =>
    s.memWord_setMemWord_other w hj hj' hne
  obtain ⟨m', ht', hsame⟩ := exec_alike hinv hs hread h
  exact ⟨t.withMem m', ht', rfl, hsame⟩

end Sys2Proof.Machine
end

section
/-! The command word (`30_encoding.md` R60 to R63, R66): a word is its three fields, and a command is what the fields OPC
and LOGN name. -/

namespace Sys2Proof

/-! ## A word is its three fields -/

theorem opcField_toNat (w : Word) : (opcField w).toNat = w.toNat % 256 := by
  simp [opcField, BitVec.extractLsb'_toNat]

theorem lognField_eq (w : Word) : lognField w = w.toNat / 256 % 16 := by
  simp [lognField, BitVec.extractLsb'_toNat, Nat.shiftRight_eq_div_pow]

theorem rsvField_toNat (w : Word) : (rsvField w).toNat = w.toNat / 2 ^ 12 := by
  have hw : w.toNat / 2 ^ 12 < 2 ^ 20 := by omega
  rw [rsvField, BitVec.extractLsb'_toNat, Nat.shiftRight_eq_div_pow, Nat.mod_eq_of_lt hw]

theorem rsvField_eq_zero_iff {w : Word} : rsvField w = 0#20 ↔ w.toNat / 2 ^ 12 = 0 := by
  rw [← BitVec.toNat_inj, rsvField_toNat]; rfl

theorem lognField_lt (w : Word) : lognField w < 16 := by
  rw [lognField_eq]; omega

theorem toNat_eq_fields (w : Word) :
    w.toNat = (opcField w).toNat + lognField w * 256 + (rsvField w).toNat * 4096 := by
  rw [opcField_toNat, lognField_eq, rsvField_toNat]; omega

theorem word_eq_iff_fields {v w : Word} :
    v = w ↔ rsvField v = rsvField w ∧ opcField v = opcField w ∧ lognField v = lognField w := by
  refine ⟨fun h => h ▸ ⟨rfl, rfl, rfl⟩, fun ⟨hrsv, hopc, hlogn⟩ => BitVec.eq_of_toNat_eq ?_⟩
  rw [toNat_eq_fields v, toNat_eq_fields w, hrsv, hopc, hlogn]

theorem opcField_and (v w : Word) : opcField (v &&& w) = opcField v &&& opcField w := BitVec.extractLsb'_and

theorem rsvField_and (v w : Word) : rsvField (v &&& w) = rsvField v &&& rsvField w := BitVec.extractLsb'_and

theorem lognField_and (v w : Word) : lognField (v &&& w) = lognField v &&& lognField w := by
  simp [lognField, BitVec.extractLsb'_and]

/-! ## A command is its opcode and its LOGN value -/

theorem Instr.lognValue_eq (i : Instr) : i.lognValue = i.transformLogn.getD 0 := by
  cases i <;> rfl

theorem Instr.matchValue_eq (i : Instr) : i.matchValue = i.opcode.toNat := by
  cases i <;> rfl

/-- A command has an encoding when its LOGN value fits the field (R61). -/
theorem Instr.wf_iff (i : Instr) : i.wf = true ↔ i.lognValue < 16 := by
  cases i with
  | ntti | intti | nttil | inttil | nttr | inttr => exact decide_eq_true_iff
  | _ => exact iff_of_true rfl (by decide)

theorem plainCommand_eq_ok {i j : Instr} {k : Nat} : plainCommand i k = .ok j ↔ k = 0 ∧ i = j := by
  unfold plainCommand
  split <;> simp_all

theorem decodeFields_opcode (i : Instr) : decodeFields i.opcode i.lognValue = .ok i := by
  cases i <;> rfl

/-- A command that `r` answers is named by the opcode `opc` and the LOGN value `k`. -/
def AnswersNamed (opc : Byte) (k : Nat) (r : Except DecodeError Instr) : Prop :=
  ∀ i, r = .ok i → opc = i.opcode ∧ k = i.lognValue

section
variable {opc o : Byte} {k : Nat} {i : Instr} {r : Except DecodeError Instr}

theorem answersNamed_plain_row (ho : i.opcode = o) (hk : i.lognValue = 0) (hr : AnswersNamed opc k r) :
    AnswersNamed opc k (if opc = o then plainCommand i k else r) := by
  split
  case isTrue hopc =>
    intro j hj
    obtain ⟨rfl, rfl⟩ := plainCommand_eq_ok.1 hj
    exact ⟨hopc.trans ho.symm, hk.symm⟩
  case isFalse => exact hr

theorem answersNamed_transform_row (ho : i.opcode = o) (hk : i.lognValue = k) (hr : AnswersNamed opc k r) :
    AnswersNamed opc k (if opc = o then .ok i else r) := by
  split
  case isTrue hopc =>
    rintro j ⟨⟩
    exact ⟨hopc.trans ho.symm, hk.symm⟩
  case isFalse => exact hr

/-- Fourteen rows of the opcode map are commands without LOGN, six are transforms (R62). -/
theorem answersNamed_decodeFields : AnswersNamed opc k (decodeFields opc k) := by
  unfold decodeFields
  iterate 14 refine answersNamed_plain_row rfl rfl ?_
  iterate 6 refine answersNamed_transform_row rfl rfl ?_
  exact nofun

end

/-- The decoder answers a command exactly at the words whose RSV is 0 and whose OPC and LOGN are the command's. -/
theorem decode_eq_ok_iff {w : Word} {i : Instr} :
    decode w = .ok i ↔ rsvField w = 0#20 ∧ opcField w = i.opcode ∧ lognField w = i.lognValue := by
  unfold decode
  constructor
  · intro h
    split at h
    case isTrue hrsv => exact ⟨hrsv, answersNamed_decodeFields i h⟩
    case isFalse => cases h
  · rintro ⟨hrsv, hopc, hlogn⟩
    rw [if_pos hrsv, hopc, hlogn, decodeFields_opcode]

/-! ## Encoding -/

theorem encode_toNat {i : Instr} (hi : i.wf = true) : (encode i).toNat = i.matchValue + i.lognValue * 256 := by
  rw [toNat_eq_fields, opcField_encode, lognField_encode, rsvField_encode, Nat.mod_eq_of_lt (i.wf_iff.1 hi),
    i.matchValue_eq]
  rfl

theorem decode_encode {i : Instr} (hi : i.wf = true) : decode (encode i) = .ok i :=
  decode_eq_ok_iff.2 (Laws.EncodedFields.of_small i.wf_iff.1 hi)

theorem wf_of_decode {w : Word} {i : Instr} (h : decode w = .ok i) : i.wf = true := by
  obtain ⟨-, -, hlogn⟩ := decode_eq_ok_iff.1 h
  exact i.wf_iff.2 (hlogn ▸ lognField_lt w)

theorem encode_of_decode {w : Word} {i : Instr} (h : decode w = .ok i) : encode i = w := by
  obtain ⟨hrsv, hopc, hlogn⟩ := decode_eq_ok_iff.1 h
  obtain ⟨hrsv', hopc', hlogn'⟩ := decode_eq_ok_iff.1 (decode_encode (wf_of_decode h))
  exact word_eq_iff_fields.2 ⟨hrsv'.trans hrsv.symm, hopc'.trans hopc.symm, hlogn'.trans hlogn.symm⟩

/-- Settles O4: a word is its three fields, and a command its opcode and LOGN value. -/
theorem decodeAndEncodeAgree : Obligations.DecodeAndEncodeAgree :=
  ⟨fun i hi => ⟨decode_encode hi, by rw [encode_toNat hi, i.lognValue_eq]⟩,
    fun _ _ h => ⟨wf_of_decode h, encode_of_decode h⟩⟩

/-! ## The match and mask columns of the opcode map -/

theorem matchValue_fields (i : Instr) :
    rsvField (BitVec.ofNat 32 i.matchValue) = 0#20 ∧ opcField (BitVec.ofNat 32 i.matchValue) = i.opcode ∧
      lognField (BitVec.ofNat 32 i.matchValue) = 0 := by
  have hopc := i.opcode.isLt
  have hw : (BitVec.ofNat 32 i.matchValue).toNat = i.opcode.toNat := by
    rw [i.matchValue_eq, BitVec.toNat_ofNat]; omega
  refine ⟨rsvField_eq_zero_iff.2 (by omega), BitVec.eq_of_toNat_eq ?_, ?_⟩
  · rw [opcField_toNat]; omega
  · rw [lognField_eq]; omega

/-- A mask covers RSV and OPC, and LOGN where the command is no transform. -/
theorem maskValue_fields (i : Instr) :
    rsvField (BitVec.ofNat 32 i.maskValue) = BitVec.allOnes 20 ∧
      opcField (BitVec.ofNat 32 i.maskValue) = BitVec.allOnes 8 ∧
      lognField (BitVec.ofNat 32 i.maskValue) = if i.transformLogn.isSome then 0 else 15 := by
  unfold Instr.maskValue
  split <;> exact ⟨rfl, rfl, rfl⟩

/-- A masked word is the match value exactly when RSV is 0, OPC is the opcode and a LOGN that the mask covers is 0. -/
theorem and_maskValue_eq_matchValue_iff {w : Word} {i : Instr} :
    w &&& BitVec.ofNat 32 i.maskValue = BitVec.ofNat 32 i.matchValue ↔
      rsvField w = 0#20 ∧ opcField w = i.opcode ∧ (i.transformLogn = none → lognField w = 0) := by
  obtain ⟨hrsv, hopc, hlogn⟩ := maskValue_fields i
  obtain ⟨hrsv', hopc', hlogn'⟩ := matchValue_fields i
  rw [word_eq_iff_fields, rsvField_and, opcField_and, lognField_and, hrsv, hopc, hlogn, hrsv', hopc', hlogn',
    BitVec.and_allOnes, BitVec.and_allOnes]
  have hcovered : lognField w &&& 15 = lognField w := by
    rw [Nat.and_two_pow_sub_one_eq_mod _ 4, Nat.mod_eq_of_lt (lognField_lt w)]
  cases i.transformLogn <;> simp [hcovered]

/-- Settles O3: the mask leaves LOGN out exactly where it is the command's immediate. -/
theorem decodeFollowsMatchAndMask : Obligations.DecodeFollowsMatchAndMask := by
  intro w i
  have hshift : (w >>> 8).toNat % 16 = lognField w := by
    rw [lognField_eq, BitVec.toNat_ushiftRight, Nat.shiftRight_eq_div_pow]
  rw [decode_eq_ok_iff, and_maskValue_eq_matchValue_iff, hshift, i.lognValue_eq]
  cases i.transformLogn with
  | none => simp
  | some k => simp [and_assoc, eq_comm]

/-! ## Illegal words -/

/-- The opcodes of R62. -/
def opcodes : List Nat :=
  [0x00, 0x01, 0x02, 0x10, 0x11, 0x12, 0x13, 0x14, 0x20, 0x21, 0x22, 0x23, 0x24, 0x25,
    0x30, 0x31, 0x32, 0x33, 0x40, 0x41]

/-- The commands in the order of their opcodes, the transforms with LOGN `k`. -/
def commands (k : Nat) : List Instr :=
  [.nop, .setmod, .clrerr, .fadd, .fsub, .fmul, .finv, .fsqrt, .f2add, .f2sub, .f2mul, .f2inv, .f2sqrt, .f2neg,
    .ntti k, .intti k, .nttil k, .inttil k, .nttr k, .inttr k]

theorem map_opcode_commands (k : Nat) : (commands k).map (fun i => i.opcode.toNat) = opcodes := rfl

theorem mem_commands (i : Instr) : i ∈ commands i.lognValue := by
  cases i <;> simp [commands, Instr.lognValue]

/-- Below 0x30 the opcodes are those of the commands without LOGN. -/
theorem lognValue_of_mem_commands {k : Nat} :
    ∀ i ∈ commands k, i.lognValue = if i.opcode.toNat < 0x30 then 0 else k := by
  intro i hi
  cases i with
  | ntti logn | intti logn | nttil logn | inttil logn | nttr logn | inttr logn =>
    obtain rfl : logn = k := by simpa [commands] using hi
    rfl
  | _ => rfl

/-- Which pairs of an opcode and a LOGN value are a command's (R62). -/
theorem exists_command_iff {opc : Byte} {k : Nat} :
    (∃ i : Instr, opc = i.opcode ∧ k = i.lognValue) ↔ opc.toNat ∈ opcodes ∧ (opc.toNat < 0x30 → k = 0) := by
  rw [← map_opcode_commands k, List.mem_map]
  constructor
  · rintro ⟨i, rfl, rfl⟩
    have hi := mem_commands i
    exact ⟨⟨i, hi, rfl⟩, fun hlt => by rw [lognValue_of_mem_commands i hi, if_pos hlt]⟩
  · rintro ⟨⟨i, hi, hopc⟩, hplain⟩
    refine ⟨i, BitVec.eq_of_toNat_eq hopc.symm, ?_⟩
    rw [lognValue_of_mem_commands i hi, hopc]
    split
    case isTrue hlt => exact hplain hlt
    case isFalse => rfl

theorem exists_decode_eq_ok_iff {w : Word} : (∃ i, decode w = .ok i) ↔
    w.toNat / 2 ^ 12 = 0 ∧ w.toNat % 256 ∈ opcodes ∧ (w.toNat % 256 < 0x30 → w.toNat / 256 % 16 = 0) := by
  rw [← rsvField_eq_zero_iff, ← opcField_toNat, ← lognField_eq, ← exists_command_iff, ← exists_and_left]
  exact exists_congr fun i => decode_eq_ok_iff

theorem exists_decode_eq_error_iff {w : Word} : (∃ d, decode w = .error d) ↔ ¬∃ i, decode w = .ok i := by
  cases decode w <;> simp

/-- The three kinds of illegal word (R63). -/
theorem illegal_iff {w : Word} : (∃ d, decode w = .error d) ↔
    w.toNat / 2 ^ 12 ≠ 0 ∨ w.toNat % 256 ∉ opcodes ∨ w.toNat % 256 < 0x30 ∧ w.toNat / 256 % 16 ≠ 0 := by
  rw [exists_decode_eq_error_iff, exists_decode_eq_ok_iff]
  tauto

/-- Settles O6: the decoder evaluated at each word. -/
theorem writtenOutWordsDecode : Obligations.WrittenOutWordsDecode :=
  ⟨rfl, rfl, rfl, rfl, rfl, rfl, rfl, rfl, rfl⟩

end Sys2Proof
end

section
/-! The launch of a command, the step that runs it (`30_encoding.md` R63 to R65) and its completion
(`70_reset_and_hazards.md` R144). -/

namespace Sys2Proof.Machine

/-! ## The launch -/

theorem State.hostWrite_cmd {s : State} (hb : s.busy = false) (w : Word) :
    s.hostWrite 0x0014#16 w = some (s.launch w) :=
  State.hostWrite_reg hb w .cmd rfl rfl rfl

/-- Settles O20: the write reaches `CMD`, and a launch attempt is accepted or refused. -/
theorem commandLaunchAcceptsOrRefuses : Obligations.CommandLaunchAcceptsOrRefuses := by
  intro s w hb
  rw [State.hostWrite_cmd hb, State.launch]
  exact apply_ite some _ _ _

/-! ## The engine's turn and the step -/

section
variable {s : State}

theorem State.engineStep_of_decode {i : Instr} (hb : s.busy = true) (hd : decode s.cmdLatch = .ok i) :
    s.engineStep = exec i s := by
  simp [State.engineStep, hb, State.runCommand, State.fetchCommand, hd]

/-- An illegal word in flight takes error entry with code 6 (R63; `60_exceptions.md` R129, R133). -/
theorem State.engineStep_of_illegal {d : DecodeError} (hb : s.busy = true) (hd : decode s.cmdLatch = .error d) :
    s.engineStep = .next (s.withError 6#4) := by
  simp [State.engineStep, hb, State.runCommand, State.fetchCommand, hd, State.enterError, State.withError, CmdError.code]

theorem State.engineStep_idle (hb : s.busy = false) : s.engineStep = .next s := by
  simp [State.engineStep, hb]

theorem step_of_agenda_nil (ha : s.agenda = []) : step s = s.engineStep := by
  simp [step, ha]

theorem step_of_agenda_engine {rest : List Event} (ha : s.agenda = .engine :: rest) :
    step s = State.engineStep { s with agenda := rest } := by
  simp [step, ha]

theorem State.withFetchWord_word (s : State) (w : Word) :
    s.withFetchWord 32 w.toNat = { s.accept w with agenda := engineFirst s.agenda } := by
  rw [State.withFetchWord, Nat.mod_eq_of_lt w.isLt, BitVec.ofNat_toNat, BitVec.setWidth_eq]

/-- With the engine first to move, the step is the engine's, the agenda what it was. -/
theorem step_engineFirst (s : State) : step { s with agenda := engineFirst s.agenda } = s.engineStep := by
  cases ha : s.agenda with
  | nil =>
    rw [step_of_agenda_nil (by rfl), engineFirst, ← ha]
  | cons e es =>
    rw [step_of_agenda_engine (rest := s.agenda) (by rw [ha]; rfl)]

end

/-- Settles O5: the fields of the word decide whether it is illegal; the launch does not look, the engine's turn does. -/
theorem illegalWordIsAcceptedAndRaisesIllegalCommand : Obligations.IllegalWordIsAcceptedAndRaisesIllegalCommand := by
  refine ⟨fun w => illegal_iff, fun s w ⟨d, hd⟩ hb he => ⟨?_, State.engineStep_of_illegal rfl hd⟩⟩
  rw [commandLaunchAcceptsOrRefuses s w hb, if_neg (by simp [he])]

/-- Settles O7: the step is the engine's turn, and the engine's turn is the command decoded from `CMDLATCH`. -/
theorem stepRunsTheDecodedCommand : Obligations.StepRunsTheDecodedCommand := by
  refine ⟨fun s i hb hd ha => ?_, fun s i rest hb hd ha => ?_, fun s d hb hd ha => ?_, fun s hb ha => ?_, fun s w i hd => ?_⟩
  · exact (step_of_agenda_nil ha).trans (State.engineStep_of_decode hb hd)
  · exact (step_of_agenda_engine ha).trans (State.engineStep_of_decode hb hd)
  · exact (step_of_agenda_nil ha).trans (State.engineStep_of_illegal hb hd)
  · exact (step_of_agenda_nil ha).trans (State.engineStep_idle hb)
  · rw [State.withFetchWord_word]
    exact (step_engineFirst (s.accept w)).trans (State.engineStep_of_decode rfl hd)

/-! ## Completion -/

theorem exec_next_not_busy (i : Instr) (s : State) : ∃ t, exec i s = .next t ∧ t.busy = false := by
  obtain ⟨r, hr⟩ := exec_eq_finish i s
  obtain ⟨t, ht⟩ := s.finish_next r
  have hnext : exec i s = .next t := hr.trans ht
  exact ⟨t, hnext, (exec_completes hnext).busy⟩

theorem State.engineStep_next (s : State) : ∃ t, s.engineStep = .next t := by
  cases hb : s.busy with
  | false => exact ⟨s, State.engineStep_idle hb⟩
  | true =>
    obtain ⟨t, ht, -⟩ := s.runCommand_next
    exact ⟨t, by rw [State.engineStep, if_pos hb, ht]⟩

theorem step_next (s : State) : ∃ t, step s = .next t := by
  obtain ⟨-, he⟩ | ⟨rest, -, he⟩ | ⟨rest, -, he⟩ | ⟨t, rest, -, -, he⟩ | ⟨t, rest, s', r, -, -, he⟩ := step_cases s
  · exact he ▸ s.engineStep_next
  · exact he ▸ State.engineStep_next _
  · exact ⟨_, he⟩
  · exact he ▸ s.engineStep_next
  · exact ⟨_, he⟩

/-- Settles O8: whoever has the turn, the step answers a next state, and a completion step ends the command. -/
theorem everyStepAnswersANextState : Obligations.EveryStepAnswersANextState :=
  ⟨step_next, fun s i => exec_next_not_busy i s⟩

end Sys2Proof.Machine
end

section
/-! The system commands (`40_system.md`): SETMOD's choice from any table (R69), and the whole effect of NOP (R68) and
CLRERR (R70). -/

namespace Sys2Proof.Machine

/-! ## SETMOD's choice, exactly -/

section
variable {table : List Config.ModEntry} {q : Nat} {e : Config.ModEntry}

/-- The lookup finds the first entry of the modulus and no other. -/
theorem lookupModulus_eq_some_iff :
    lookupModulus table q = some e ↔
      (∃ before after, table = before ++ e :: after ∧ ∀ e' ∈ before, e'.q ≠ q) ∧ e.q = q := by
  simp [lookupModulus, List.find?_eq_some_iff_append, and_comm]

theorem needsLift_iff : needsLift e = true ↔ ctzNat (e.q - 1) < e.maxLog + 1 := decide_eq_true_iff

/-- The entry chosen is the entry found, unless R69's structural check refuses it: no later entry is tried. -/
theorem chooseModulus_eq_ok_iff :
    chooseModulus table q = .ok e ↔ lookupModulus table q = some e ∧ ¬(needsLift e = true ∧ e.q % 4 ≠ 3) := by
  unfold chooseModulus
  cases lookupModulus table q with
  | none => simp
  | some found =>
    simp only [Option.some.injEq, Bool.and_eq_true, decide_eq_true_eq]
    split
    case isTrue hrefused => exact ⟨nofun, fun ⟨hfound, hok⟩ => absurd (hfound ▸ hrefused) hok⟩
    case isFalse hpasses =>
      rw [Except.ok.injEq]
      exact ⟨fun hfound => ⟨hfound, hfound ▸ hpasses⟩, And.left⟩

end

/-- Settles O32: the choice is the first match that passes the structural check, the modulus of the entry being `q`. -/
theorem setmodTakesTheFirstMatchWithItsStructure : Obligations.SetmodTakesTheFirstMatchWithItsStructure := by
  intro table q e
  rw [chooseModulus_eq_ok_iff, lookupModulus_eq_some_iff, needsLift_iff, and_assoc]
  refine and_congr_right fun _ => and_congr_right fun hq => ?_
  rw [hq]

/-! ## NOP and CLRERR -/

theorem execNop_eq (s : State) : exec .nop s = .next s.complete := rfl

/-- Settles O30: NOP is completion alone, CLRERR leaves the error state first. -/
theorem nopAndClrerrChangeOnlyTheirFlags : Obligations.NopAndClrerrChangeOnlyTheirFlags :=
  fun s => ⟨execNop_eq s, execClrerr_eq s⟩

end Sys2Proof.Machine
end

section
/-! How a command is refused: the checks of the operand forms in the order of `60_exceptions.md` R132, each error
the whole next state (R133). The structure of the modulus is rank 3, the canonical operands of the scalar commands rank 5. -/

namespace Sys2Proof.Machine

section
variable {s : State} {e : CmdError}

/-- Error entry as a record: an error is the code of R129 in the latch. -/
theorem State.finish_of_error {r : Except CmdError State} (h : r = .error e) :
    s.finish r = .next (s.withError e.code) := by
  rw [h, State.finish_error]; rfl

/-- Every word of the input set is looked at, and one at `Q` or above is enough (R131). -/
theorem State.not_canonical_iff {ws : List Word} : ¬s.canonical ws = true ↔ ∃ w ∈ ws, s.q.toNat ≤ w.toNat := by
  simp [State.canonical_iff]

/-! ## What each form refuses, in the order of its checks -/

theorem State.fpBinary_error {f : Modulus → Nat → Nat → Nat} :
    s.fpBinary f = .error e ↔
      (¬s.cfgValid = true ∧ e = .unsupportedModulus) ∨
      s.cfgValid = true ∧ ¬s.canonical [s.a0, s.b0] = true ∧ e = .nonCanonical := by
  simp only [State.fpBinary, bind_eq_error, State.requireConfigured_ok, State.requireConfigured_error,
    State.requireCanonical_ok, State.requireCanonical_error, exists_const, reduceCtorEq, and_false, or_false]

theorem State.fpUnary_error {g : State → Except CmdError Unit} {f : Modulus → Nat → Except CmdError Nat} :
    s.fpUnary g f = .error e ↔
      (¬s.cfgValid = true ∧ e = .unsupportedModulus) ∨
      s.cfgValid = true ∧ (g s = .error e ∨
        g s = .ok () ∧ ((¬s.canonical [s.a0] = true ∧ e = .nonCanonical) ∨
          s.canonical [s.a0] = true ∧ f s.modulus s.opA = .error e)) := by
  simp only [State.fpUnary, bind_eq_error, State.requireConfigured_ok, State.requireConfigured_error,
    State.requireCanonical_ok, State.requireCanonical_error, exists_const, reduceCtorEq, and_false, or_false,
    Unique.exists_iff, PUnit.default_eq_unit]

theorem State.fp2Binary_error {f : Modulus → Fp2 → Fp2 → Fp2} :
    s.fp2Binary f = .error e ↔
      (¬s.cfgValid = true ∧ e = .unsupportedModulus) ∨
      s.cfgValid = true ∧ ((¬s.q.toNat % 4 = 3 ∧ e = .unsupportedModulus) ∨
        s.q.toNat % 4 = 3 ∧ ¬s.canonical [s.a0, s.a1, s.b0, s.b1] = true ∧ e = .nonCanonical) := by
  simp only [State.fp2Binary, bind_eq_error, State.requireConfigured_ok, State.requireConfigured_error,
    State.requireThreeModFour_ok, State.requireThreeModFour_error,
    State.requireCanonical_ok, State.requireCanonical_error, exists_const, reduceCtorEq, and_false, or_false]

theorem State.fp2Unary_error {f : Modulus → Fp2 → Except CmdError Fp2} :
    s.fp2Unary f = .error e ↔
      (¬s.cfgValid = true ∧ e = .unsupportedModulus) ∨
      s.cfgValid = true ∧ ((¬s.q.toNat % 4 = 3 ∧ e = .unsupportedModulus) ∨
        s.q.toNat % 4 = 3 ∧ ((¬s.canonical [s.a0, s.a1] = true ∧ e = .nonCanonical) ∨
          s.canonical [s.a0, s.a1] = true ∧ f s.modulus s.opX = .error e)) := by
  simp only [State.fp2Unary, bind_eq_error, State.requireConfigured_ok, State.requireConfigured_error,
    State.requireThreeModFour_ok, State.requireThreeModFour_error,
    State.requireCanonical_ok, State.requireCanonical_error, exists_const, reduceCtorEq, and_false, or_false]

theorem State.lazyTransform_error {logn : Nat} {inputs : List Word} {net : List Nat → Except CmdError (List Nat)} :
    s.lazyTransform logn inputs net = .error e ↔
      (¬s.cfgValid = true ∧ e = .unsupportedModulus) ∨
      s.cfgValid = true ∧ ((¬s.q.toNat = Config.lazyQ ∧ e = .unsupportedModulus) ∨
        s.q.toNat = Config.lazyQ ∧ ((¬s.LengthOk logn ∧ e = .invalidLength) ∨
          s.LengthOk logn ∧ ((¬s.canonical inputs = true ∧ e = .nonCanonical) ∨
            s.canonical inputs = true ∧ net (s.bufFp (2 ^ logn)) = .error e))) := by
  simp only [State.lazyTransform, bind_eq_error, State.requireConfigured_ok, State.requireConfigured_error,
    State.requireLazyModulus_ok, State.requireLazyModulus_error, State.requireLength_ok, State.requireLength_error,
    State.requireCanonical_ok, State.requireCanonical_error, exists_const, reduceCtorEq, and_false, or_false]

/-! ## The structure of the modulus -/

/-- FSQRT and the Fp2 commands look at Q mod 4 before their operands. -/
theorem exec_of_not_threeModFour {i : Instr} (hi : i = .fsqrt ∨ i.isFp2 = true) (hv : s.cfgValid = true)
    (hq : s.q.toNat % 4 ≠ 3) : exec i s = .next (s.withError 3#4) := by
  have hbinary (f : Modulus → Fp2 → Fp2 → Fp2) : s.fp2Binary f = .error .unsupportedModulus :=
    State.fp2Binary_error.2 (.inr ⟨hv, .inl ⟨hq, rfl⟩⟩)
  have hunary (f : Modulus → Fp2 → Except CmdError Fp2) : s.fp2Unary f = .error .unsupportedModulus :=
    State.fp2Unary_error.2 (.inr ⟨hv, .inl ⟨hq, rfl⟩⟩)
  cases i with
  | fsqrt =>
    have hg : s.requireThreeModFour = .error .unsupportedModulus := State.requireThreeModFour_error.2 ⟨hq, rfl⟩
    exact State.finish_of_error (State.fpUnary_error.2 (.inr ⟨hv, .inl hg⟩))
  | f2add | f2sub | f2mul => exact State.finish_of_error (hbinary _)
  | f2inv | f2sqrt | f2neg => exact State.finish_of_error (hunary _)
  | _ => simp [Instr.isFp2] at hi

/-- The lazy transforms look at `Q` before their length and their operands. -/
theorem State.lazyTransform_of_ne_lazyQ (hv : s.cfgValid = true) (hq : s.q.toNat ≠ Config.lazyQ) (logn : Nat)
    (inputs : List Word) (net : List Nat → Except CmdError (List Nat)) :
    s.finish (s.lazyTransform logn inputs net) = .next (s.withError 3#4) :=
  State.finish_of_error (State.lazyTransform_error.2 (.inr ⟨hv, .inl ⟨hq, rfl⟩⟩))

end

/-- Settles O25: the check of rank 3 stands right after that of the configuration in each of the forms. -/
theorem commandsNeedTheirModulusStructure : Obligations.CommandsNeedTheirModulusStructure :=
  ⟨fun _ _ hi hv hq => exec_of_not_threeModFour hi hv hq, fun _ _ hv hq =>
    ⟨State.lazyTransform_of_ne_lazyQ hv hq _ _ _, State.lazyTransform_of_ne_lazyQ hv hq _ _ _⟩⟩

/-! ## Canonical operands -/

/-- Settles O27: each form checks its own input set before it computes. -/
theorem nonCanonicalOperandsAreRefused : Obligations.NonCanonicalOperandsAreRefused := by
  intro i s hv
  refine ⟨fun hi h => ?fpBinary, fun hi h => ?fpUnary, fun hi hq h => ?fp2Unary, fun hi hq h => ?fp2Binary⟩
  case fpBinary =>
    have hc : ¬s.canonical [s.a0, s.b0] = true := State.not_canonical_iff.2 (by simpa using h)
    have herr (f : Modulus → Nat → Nat → Nat) : s.fpBinary f = .error .nonCanonical :=
      State.fpBinary_error.2 (.inr ⟨hv, hc, rfl⟩)
    obtain rfl | rfl | rfl := hi
    all_goals exact State.finish_of_error (herr _)
  case fpUnary =>
    have hc : ¬s.canonical [s.a0] = true := State.not_canonical_iff.2 (by simpa using h)
    have herr {g : State → Except CmdError Unit} (hg : g s = .ok ()) (f : Modulus → Nat → Except CmdError Nat) :
        s.fpUnary g f = .error .nonCanonical :=
      State.fpUnary_error.2 (.inr ⟨hv, .inr ⟨hg, .inl ⟨hc, rfl⟩⟩⟩)
    obtain rfl | ⟨rfl, hq⟩ := hi
    · exact State.finish_of_error (herr rfl _)
    · exact State.finish_of_error (herr (State.requireThreeModFour_ok.2 hq) _)
  case fp2Unary =>
    have hc : ¬s.canonical [s.a0, s.a1] = true := State.not_canonical_iff.2 (by simpa using h)
    have herr (f : Modulus → Fp2 → Except CmdError Fp2) : s.fp2Unary f = .error .nonCanonical :=
      State.fp2Unary_error.2 (.inr ⟨hv, .inr ⟨hq, .inl ⟨hc, rfl⟩⟩⟩)
    obtain rfl | rfl | rfl := hi
    all_goals exact State.finish_of_error (herr _)
  case fp2Binary =>
    have hc : ¬s.canonical [s.a0, s.a1, s.b0, s.b1] = true := State.not_canonical_iff.2 (by simpa using h)
    have herr (f : Modulus → Fp2 → Fp2 → Fp2) : s.fp2Binary f = .error .nonCanonical :=
      State.fp2Binary_error.2 (.inr ⟨hv, .inr ⟨hq, hc, rfl⟩⟩)
    obtain rfl | rfl | rfl := hi
    all_goals exact State.finish_of_error (herr _)

end Sys2Proof.Machine
end

section
/-! The prime field (`41_fp.md`): repeated squaring is the power (R77), extended Euclid gives the inverse within its bound
on the iterations (R76), and the candidate root of R78 is a root exactly of the squares. Then the commands FMUL, FINV and
FSQRT. -/

namespace Sys2Proof.Machine

section
variable {F : Modulus} {a r : Nat}

/-- A residue is the remainder when it is equal to the number in the ring of residues. -/
theorem mod_eq_of_cast_eq {n q : Nat} (hr : r < q) (h : (n : ZMod q) = r) : n % q = r := by
  rw [ZMod.natCast_eq_natCast_iff'] at h
  rw [h, Nat.mod_eq_of_lt hr]

/-! ## The power -/

/-- With as many iterations as the exponent has bits, the loop of R77 multiplies the power into `r`. -/
theorem fpowLoop_cast (hF : F.Ok) {fuel b e : Nat} (hr : r < F.q) (hb : b < F.q) (hfuel : e < 2 ^ fuel) :
    (fpowLoop F fuel r b e : ZMod F.q) = r * b ^ e := by
  induction fuel generalizing r b e with
  | zero =>
    obtain rfl : e = 0 := by omega
    simp [fpowLoop]
  | succ fuel ih =>
    rw [fpowLoop]
    split
    case isTrue he => simp [he]
    case isFalse =>
      have hbb := fmul_lt hF.mers hb hb
      have hhalf : e / 2 < 2 ^ fuel := by omega
      obtain heven | hodd := Nat.mod_two_eq_zero_or_one e
      · have he : 2 * (e / 2) = e := by omega
        rw [if_neg (by omega), ih hr hbb hhalf, fmul_cast hF.mers hb hb, ← pow_two, ← pow_mul, he]
      · have he : 2 * (e / 2) + 1 = e := by omega
        rw [if_pos hodd, ih (fmul_lt hF.mers hr hb) hbb hhalf, fmul_cast hF.mers hr hb, fmul_cast hF.mers hb hb,
          ← pow_two, ← pow_mul, mul_assoc, ← pow_succ', he]

theorem fpow_cast (hF : F.Ok) (ha : a < F.q) (e : Nat) : (fpow F a e : ZMod F.q) = a ^ e := by
  rw [fpow, fpowLoop_cast hF hF.one_lt ha Nat.lt_log2_self, Nat.cast_one, one_mul]

theorem fpow_eq (hF : F.Ok) (ha : a < F.q) (e : Nat) : fpow F a e = a ^ e % F.q :=
  (mod_eq_of_cast_eq (fpow_lt hF ha) (by rw [fpow_cast hF ha, Nat.cast_pow])).symm

/-! ## The inverse -/

/-- A division step of Euclid halves the product of the two remainders. -/
theorem two_mul_mul_mod_le {r0 r1 : Nat} (hr1 : r1 ≠ 0) (hlt : r1 < r0) : 2 * (r1 * (r0 % r1)) ≤ r0 * r1 := by
  have hmod : r0 % r1 < r1 := Nat.mod_lt _ (Nat.pos_of_ne_zero hr1)
  have hquot : r1 ≤ r0 / r1 * r1 := Nat.le_mul_of_pos_left r1 (Nat.div_pos hlt.le (Nat.pos_of_ne_zero hr1))
  have htwice : 2 * (r0 % r1) ≤ r0 := by
    have := Nat.div_add_mod' r0 r1
    omega
  calc 2 * (r1 * (r0 % r1)) = 2 * (r0 % r1) * r1 := by ring
    _ ≤ r0 * r1 := Nat.mul_le_mul_right r1 htwice

/-- Extended Euclid: while `t0 * a = r0` and `t1 * a = r1` modulo `q`, the loop ends with a coefficient of the greatest
common divisor. Since their product halves in each iteration, `fuel` is enough to reach the end. -/
theorem finvLoop_cast {q fuel r0 r1 : Nat} {t0 t1 : ℤ} (hlt : r1 < r0) (hfuel : r0 * r1 < 2 ^ fuel)
    (h0 : (t0 : ZMod q) * a = r0) (h1 : (t1 : ZMod q) * a = r1) :
    (finvLoop fuel r0 r1 t0 t1 : ZMod q) * a = r0.gcd r1 := by
  induction fuel generalizing r0 r1 t0 t1 with
  | zero =>
    obtain rfl : r1 = 0 := by
      obtain h | h := Nat.mul_eq_zero.1 (by omega : r0 * r1 = 0) <;> omega
    simpa [finvLoop] using h0
  | succ fuel ih =>
    rw [finvLoop]
    split
    case isTrue hr1 => simpa [hr1] using h0
    case isFalse hr1 =>
      have hrem : r0 - r0 / r1 * r1 = r0 % r1 := by rw [Nat.mod_eq_sub_div_mul]
      have hmod : r0 % r1 < r1 := Nat.mod_lt _ (Nat.pos_of_ne_zero hr1)
      have hhalf : r1 * (r0 % r1) < 2 ^ fuel := by
        have := two_mul_mul_mod_le hr1 hlt
        omega
      have hcoeff : ((t0 - (r0 / r1 : Nat) * t1 : ℤ) : ZMod q) * a = ((r0 % r1 : Nat) : ZMod q) := by
        have hdiv : ((r0 / r1 : Nat) : ZMod q) * r1 + (r0 % r1 : Nat) = r0 := by
          rw [← Nat.cast_mul, ← Nat.cast_add, Nat.div_add_mod']
        rw [Int.cast_sub, Int.cast_mul, Int.cast_natCast, sub_mul, mul_assoc, h0, h1, ← hdiv, add_sub_cancel_left]
      rw [hrem, ih hmod hhalf h1 hcoeff, Nat.gcd_comm r0 r1, Nat.gcd_rec r1 r0, Nat.gcd_comm]

/-- Every canonical operand but 0 has an inverse, and the loop of R76 finds it. -/
theorem finv_spec (hF : F.Ok) (ha : a < F.q) (ha0 : a ≠ 0) :
    ∃ r, finv F a = .ok r ∧ r < F.q ∧ (r : ZMod F.q) * a = 1 := by
  have hq : (F.q : ℤ) ≠ 0 := by exact_mod_cast hF.prime.ne_zero
  have hcoprime : F.q.gcd a = 1 :=
    (hF.prime.coprime_iff_not_dvd).2 (Nat.not_dvd_of_pos_of_lt (Nat.pos_of_ne_zero ha0) ha)
  have hbound : F.q * a < 2 ^ finvBound F.q := by
    have hlog : F.q < 2 ^ (F.q.log2 + 1) := Nat.lt_log2_self
    calc F.q * a < 2 ^ (F.q.log2 + 1) * 2 ^ (F.q.log2 + 1) := Nat.mul_lt_mul'' hlog (ha.trans hlog)
      _ = 2 ^ finvBound F.q := by rw [finvBound, two_mul, ← pow_add]
  have hloop : (finvLoop (finvBound F.q) F.q a 0 1 : ZMod F.q) * a = 1 := by
    rw [finvLoop_cast ha hbound (by simp) (by simp), hcoprime, Nat.cast_one]
  have hok : finv F a = .ok (finvLoop (finvBound F.q) F.q a 0 1 % F.q).toNat := if_neg ha0
  refine ⟨_, hok, finv_lt hF hok, ?_⟩
  rw [← hloop, ← Int.cast_natCast, Int.toNat_of_nonneg (Int.emod_nonneg _ hq), ZMod.intCast_mod]

/-! ## The square root -/

/-- The candidate root of a square `y * y` is the square of the power of `y`, and Fermat's theorem makes it a root (R78). -/
theorem fpow_sqrtExp_of_square (hF : F.Ok) (hq : F.q % 4 = 3) (ha : a < F.q) {y : Nat} (hy : y * y % F.q = a) :
    (y ^ F.sqrtExp * y ^ F.sqrtExp) % F.q = fpow F a F.sqrtExp ∧
      fpow F a F.sqrtExp * fpow F a F.sqrtExp % F.q = a := by
  have : Fact F.q.Prime := ⟨hF.prime⟩
  have hay : (a : ZMod F.q) = y * y := by rw [← hy, ZMod.natCast_mod, Nat.cast_mul]
  have hroot : (fpow F a F.sqrtExp : ZMod F.q) = y ^ F.sqrtExp * y ^ F.sqrtExp := by
    rw [fpow_cast hF ha, hay, mul_pow]
  have hexp : 4 * F.sqrtExp = F.q + 1 := by unfold Modulus.sqrtExp; omega
  refine ⟨mod_eq_of_cast_eq (fpow_lt hF ha) (by push_cast; exact hroot.symm), mod_eq_of_cast_eq ha ?_⟩
  calc ((fpow F a F.sqrtExp * fpow F a F.sqrtExp : Nat) : ZMod F.q)
      = (y : ZMod F.q) ^ (4 * F.sqrtExp) := by rw [Nat.cast_mul, hroot]; ring
    _ = a := by rw [hexp, pow_succ, ZMod.pow_card, hay]

/-- The check by squaring (R78), as a remainder. -/
theorem fsqrt_eq (hF : F.Ok) (ha : a < F.q) :
    fsqrt F a = if fpow F a F.sqrtExp * fpow F a F.sqrtExp % F.q = a then .ok (fpow F a F.sqrtExp)
      else .error .notASquare := by
  rw [fsqrt, fmul_eq hF.mers (fpow_lt hF ha) (fpow_lt hF ha), ite_not]

end

/-- Settles O38: the loop is the power in the ring of residues. -/
theorem powerBySquaringIsThePower : Obligations.PowerBySquaringIsThePower := fun _ _ e hF ha => fpow_eq hF ha e

/-! ## The commands -/

/-- Settles O36: the invariant ties the datapath to the modulus, and both datapaths give the residue. -/
theorem fmulWritesTheResidueOnBothDatapaths : Obligations.FmulWritesTheResidueOnBothDatapaths := fun _ hs hv ha hb =>
  State.finish_fpBinary hv ha hb (fmul_eq (hs.modulus_ok hv).mers ha hb)

section
variable {s : State} {g : State → Except CmdError Unit} {f : Modulus → Nat → Except CmdError Nat}

/-- A completion of a one-operand Fp command with a canonical operand, whatever `B0` holds. -/
theorem State.finish_fpUnary {r : Nat} (hv : s.cfgValid = true) (hg : g s = .ok ()) (ha : s.a0.toNat < s.q.toNat)
    (hr : f s.modulus s.a0.toNat = .ok r) :
    s.finish (s.fpUnary g f) = .next { s with res0 := BitVec.ofNat 32 r, done := true, busy := false } := by
  have hok : s.fpUnary g f = .ok (s.setRes r) :=
    State.fpUnary_ok.2 ⟨hv, hg, State.canonical_iff.2 (by simp [ha]), r, hr, rfl⟩
  rw [hok]; rfl

/-- Error entry of a one-operand Fp command whose function has no value at its canonical operand. -/
theorem State.finish_fpUnary_error {e : CmdError} (hv : s.cfgValid = true) (hg : g s = .ok ())
    (ha : s.a0.toNat < s.q.toNat) (he : f s.modulus s.a0.toNat = .error e) :
    s.finish (s.fpUnary g f) = .next (s.withError e.code) :=
  State.finish_of_error (State.fpUnary_error.2
    (.inr ⟨hv, .inr ⟨hg, .inr ⟨State.canonical_iff.2 (by simp [ha]), he⟩⟩⟩))

end

/-- Settles O37: extended Euclid on a nonzero operand, and its test for 0. -/
theorem finvWritesTheInverse : Obligations.FinvWritesTheInverse := by
  intro s hs hv ha
  have hF := hs.modulus_ok hv
  refine ⟨fun hne => ?_, fun hzero => ?_⟩
  · have hne' : s.a0.toNat ≠ 0 := fun h => hne (BitVec.eq_of_toNat_eq h)
    obtain ⟨r, hok, hr, hinv⟩ := finv_spec hF ha hne'
    exact ⟨r, hr, mod_eq_of_cast_eq hF.one_lt (by push_cast; exact hinv), State.finish_fpUnary hv rfl ha hok⟩
  · have herr : finv s.modulus s.a0.toNat = .error .notInvertible := if_pos (congrArg BitVec.toNat hzero)
    exact State.finish_fpUnary_error (g := State.requireNothing) hv rfl ha herr

/-- Settles O39: the candidate of a square passes the check and is a square; a candidate that passes shows a square. -/
theorem fsqrtWritesTheRootOrRaisesNotASquare : Obligations.FsqrtWritesTheRootOrRaisesNotASquare := by
  intro s hs hv hq ha
  have hF := hs.modulus_ok hv
  have hg := State.requireThreeModFour_ok (u := ()).2 hq
  have hsqrt := fsqrt_eq hF ha
  refine ⟨fun ⟨y, hy⟩ => ?_, fun hnone => ?_⟩
  · obtain ⟨hsquare, hroot⟩ := fpow_sqrtExp_of_square hF hq ha hy
    exact ⟨_, fpow_lt hF ha, hroot, ⟨_, hsquare⟩, State.finish_fpUnary hv hg ha (hsqrt.trans (if_pos hroot))⟩
  · exact State.finish_fpUnary_error hv hg ha (hsqrt.trans (if_neg fun hroot => hnone ⟨_, hroot⟩))

end Sys2Proof.Machine
end

section
/-! The quadratic extension field (`42_fp2.md`): the product of R87 in the ring of residues, the inverse of R88 and its norm,
and the completed square root of R89, each of its three completions a fact about squares modulo a prime that is 3 modulo 4.
Then the commands F2MUL, F2INV and F2SQRT. -/

namespace Sys2Proof.Machine

section
variable {F : Modulus} {a : Nat} {x y z : Fp2}

/-! ## The product -/

theorem f2mul_fst_cast (hF : F.Ok) (hx : Fp2.Canon F x) (hy : Fp2.Canon F y) :
    ((f2mul F x y).1 : ZMod F.q) = x.1 * y.1 - x.2 * y.2 := by
  rw [f2mul, fsub_cast (fmul_lt hF.mers hx.1 hy.1) (fmul_lt hF.mers hx.2 hy.2), fmul_cast hF.mers hx.1 hy.1,
    fmul_cast hF.mers hx.2 hy.2]

theorem f2mul_snd_cast (hF : F.Ok) (hx : Fp2.Canon F x) (hy : Fp2.Canon F y) :
    ((f2mul F x y).2 : ZMod F.q) = x.1 * y.2 + x.2 * y.1 := by
  rw [f2mul, fadd_cast (fmul_lt hF.mers hx.1 hy.2) (fmul_lt hF.mers hx.2 hy.1), fmul_cast hF.mers hx.1 hy.2,
    fmul_cast hF.mers hx.2 hy.1]

/-- A canonical pair is the product when its components are in the ring of residues. -/
theorem f2mul_eq_iff (hF : F.Ok) (hx : Fp2.Canon F x) (hy : Fp2.Canon F y) (hz : Fp2.Canon F z) :
    f2mul F x y = z ↔ (x.1 * y.1 - x.2 * y.2 : ZMod F.q) = z.1 ∧ (x.1 * y.2 + x.2 * y.1 : ZMod F.q) = z.2 := by
  rw [← f2mul_fst_cast hF hx hy, ← f2mul_snd_cast hF hx hy]
  have hcanon := f2mul_canon hF.mers hx hy
  refine ⟨fun h => by simp [h], fun ⟨hfst, hsnd⟩ => ?_⟩
  exact Prod.ext (eq_of_cast_eq hcanon.1 hz.1 hfst) (eq_of_cast_eq hcanon.2 hz.2 hsnd)

/-- The product in numbers: adding q² keeps the difference of R87 from falling below 0. -/
theorem f2mul_eq (hF : F.Ok) (hx : Fp2.Canon F x) (hy : Fp2.Canon F y) :
    f2mul F x y = ((x.1 * y.1 + (F.q * F.q - x.2 * y.2)) % F.q, (x.1 * y.2 + x.2 * y.1) % F.q) := by
  have hle : x.2 * y.2 ≤ F.q * F.q := Nat.mul_le_mul hx.2.le hy.2.le
  have hpos := hF.prime.pos
  refine (f2mul_eq_iff hF hx hy ⟨Nat.mod_lt _ hpos, Nat.mod_lt _ hpos⟩).2 ⟨?_, ?_⟩
  · rw [ZMod.natCast_mod]
    push_cast [Nat.cast_sub hle, ZMod.natCast_self]
    ring
  · rw [ZMod.natCast_mod]
    push_cast
    rfl

/-- A square in Fp2, the second component written as R89 derives it. -/
theorem f2mul_self_eq_iff (hF : F.Ok) (hy : Fp2.Canon F y) :
    f2mul F y y = x ↔ (y.1 * y.1 + (F.q * F.q - y.2 * y.2)) % F.q = x.1 ∧ 2 * y.1 * y.2 % F.q = x.2 := by
  have htwice : y.1 * y.2 + y.2 * y.1 = 2 * y.1 * y.2 := by ring
  rw [f2mul_eq hF hy hy, htwice, Prod.ext_iff]

/-! ## The inverse -/

theorem f2norm_cast (hF : F.Ok) (hx : Fp2.Canon F x) : (f2norm F x : ZMod F.q) = x.1 * x.1 + x.2 * x.2 := by
  rw [f2norm, fadd_cast (fmul_lt hF.mers hx.1 hx.1) (fmul_lt hF.mers hx.2 hx.2), fmul_cast hF.mers hx.1 hx.1,
    fmul_cast hF.mers hx.2 hx.2]

theorem cast_eq_zero_iff (ha : a < F.q) : (a : ZMod F.q) = 0 ↔ a = 0 := by
  refine ⟨fun h => eq_of_cast_eq ha (by omega) (by simpa using h), fun h => by simp [h]⟩

/-- Since -1 is not a square, the norm vanishes at 0 alone (R88). -/
theorem eq_zero_of_f2norm_eq_zero (hF : F.Ok) (hq : F.q % 4 = 3) (hx : Fp2.Canon F x) (h : f2norm F x = 0) :
    x = (0, 0) := by
  have : Fact F.q.Prime := ⟨hF.prime⟩
  have hsum : (x.1 * x.1 + x.2 * x.2 : ZMod F.q) = 0 := by rw [← f2norm_cast hF hx, h, Nat.cast_zero]
  have hsnd : (x.2 : ZMod F.q) = 0 := by
    by_contra hne
    exact ZMod.mod_four_ne_three_of_sq_eq_neg_sq' hne (by linear_combination hsum : (x.1 : ZMod F.q) ^ 2 = _) hq
  have hfst : (x.1 : ZMod F.q) = 0 := by simpa [hsnd] using hsum
  exact Prod.ext ((cast_eq_zero_iff hx.1).1 hfst) ((cast_eq_zero_iff hx.2).1 hsnd)

theorem f2inv_zero (hF : F.Ok) : f2inv F (0, 0) = .error .notInvertible := by
  have hcanon : Fp2.Canon F (0, 0) := ⟨hF.prime.pos, hF.prime.pos⟩
  exact if_pos ((cast_eq_zero_iff (f2norm_lt hF hcanon)).1 (by simp [f2norm_cast hF hcanon]))

/-- "(a0 + a1·u)(a0 - a1·u) = a0² + a1²" (R88), so the conjugate over the norm is the inverse. -/
theorem f2inv_spec (hF : F.Ok) (hq : F.q % 4 = 3) (hx : Fp2.Canon F x) (hne : x ≠ (0, 0)) :
    ∃ r, f2inv F x = .ok r ∧ f2mul F r x = (1, 0) := by
  have hnorm : f2norm F x ≠ 0 := fun h => hne (eq_zero_of_f2norm_eq_zero hF hq hx h)
  obtain ⟨ni, hok, hlt, hinv⟩ := finv_spec hF (f2norm_lt hF hx) hnorm
  have hinvOk : f2inv F x = .ok (fmul F x.1 ni, fneg F (fmul F x.2 ni)) := by
    rw [f2inv, if_neg hnorm, hok]; rfl
  refine ⟨_, hinvOk, (f2mul_eq_iff hF (f2inv_canon hF hx hinvOk) hx (one_canon hF)).2 ?_⟩
  rw [f2norm_cast hF hx] at hinv
  rw [fneg_cast (fmul_lt hF.mers hx.2 hlt), fmul_cast hF.mers hx.1 hlt, fmul_cast hF.mers hx.2 hlt, Nat.cast_one,
    Nat.cast_zero]
  exact ⟨by linear_combination hinv, by ring⟩

/-! ## Squares modulo q -/

/-- A canonical number is a square in the ring of residues when it is the remainder of a square. -/
theorem isSquare_cast_iff (hF : F.Ok) (ha : a < F.q) : IsSquare (a : ZMod F.q) ↔ ∃ y, y * y % F.q = a := by
  have : NeZero F.q := ⟨hF.prime.ne_zero⟩
  constructor
  · rintro ⟨y, hy⟩
    exact ⟨y.val, mod_eq_of_cast_eq ha (by rw [Nat.cast_mul, ZMod.natCast_zmod_val, hy])⟩
  · rintro ⟨y, hy⟩
    exact ⟨y, by rw [← hy, ZMod.natCast_mod, Nat.cast_mul]⟩

/-- The candidate root of R78 squares to its operand or to the negation of it. -/
theorem fpow_sqrtExp_mul_self (hF : F.Ok) (hq : F.q % 4 = 3) (ha : a < F.q) :
    (fpow F a F.sqrtExp * fpow F a F.sqrtExp : ZMod F.q) = a ∨
      (fpow F a F.sqrtExp * fpow F a F.sqrtExp : ZMod F.q) = -a := by
  have : Fact F.q.Prime := ⟨hF.prime⟩
  have hexp : F.sqrtExp + F.sqrtExp = F.q / 2 + 1 := by unfold Modulus.sqrtExp; omega
  rw [fpow_cast hF ha, ← pow_add, hexp, pow_succ]
  by_cases hzero : (a : ZMod F.q) = 0
  · simp [hzero]
  · obtain h | h := ZMod.pow_div_two_eq_neg_one_or_one F.q hzero
    · exact .inl (by rw [h, one_mul])
    · exact .inr (by rw [h, neg_one_mul])

/-- The candidate root of a square is a root of it and a square itself. -/
theorem fpow_sqrtExp_of_isSquare (hF : F.Ok) (hq : F.q % 4 = 3) (ha : a < F.q) (h : IsSquare (a : ZMod F.q)) :
    IsSquare (fpow F a F.sqrtExp : ZMod F.q) ∧ (fpow F a F.sqrtExp * fpow F a F.sqrtExp : ZMod F.q) = a := by
  obtain ⟨y, hy⟩ := (isSquare_cast_iff hF ha).1 h
  obtain ⟨hsquare, hroot⟩ := fpow_sqrtExp_of_square hF hq ha hy
  refine ⟨(isSquare_cast_iff hF (fpow_lt hF ha)).2 ⟨_, hsquare⟩, ?_⟩
  rw [← Nat.cast_mul, ← ZMod.natCast_mod, hroot]

/-- The check by squaring that R89 makes three times tells the squares. -/
theorem fmul_fpow_sqrtExp_eq_iff (hF : F.Ok) (hq : F.q % 4 = 3) (ha : a < F.q) :
    fmul F (fpow F a F.sqrtExp) (fpow F a F.sqrtExp) = a ↔ IsSquare (a : ZMod F.q) := by
  have hr := fpow_lt (e := F.sqrtExp) hF ha
  have hcast := fmul_cast hF.mers hr hr
  refine ⟨fun h => ⟨_, by rw [← hcast, h]⟩, fun h => eq_of_cast_eq (fmul_lt hF.mers hr hr) ha ?_⟩
  rw [hcast, (fpow_sqrtExp_of_isSquare hF hq ha h).2]

/-- The candidate root of a number that is no square is a root of its negation. -/
theorem fpow_sqrtExp_of_not_isSquare (hF : F.Ok) (hq : F.q % 4 = 3) (ha : a < F.q) (h : ¬IsSquare (a : ZMod F.q)) :
    (fpow F a F.sqrtExp * fpow F a F.sqrtExp : ZMod F.q) = -a :=
  (fpow_sqrtExp_mul_self hF hq ha).resolve_left fun hroot => h ⟨_, hroot.symm⟩

theorem Modulus.Ok.two_mul_inv2 (hF : F.Ok) : (2 * F.inv2 : ZMod F.q) = 1 := by
  have hdouble : 2 * F.inv2 = F.q + 1 := by
    have := hF.odd
    unfold Modulus.inv2
    omega
  have hcast : ((2 * F.inv2 : Nat) : ZMod F.q) = (F.q + 1 : Nat) := by rw [hdouble]
  simpa using hcast

theorem two_mul_fmul_inv2_cast (hF : F.Ok) (ha : a < F.q) : (2 * fmul F a F.inv2 : ZMod F.q) = a := by
  rw [fmul_cast hF.mers ha hF.inv2_lt]
  linear_combination (a : ZMod F.q) * hF.two_mul_inv2

/-! ## The square root of a scalar -/

/-- Completion (i) of R89: every scalar has a root, real or imaginary. -/
theorem f2mul_f2sqrtScalar (hF : F.Ok) (hq : F.q % 4 = 3) (ha : a < F.q) :
    f2mul F (f2sqrtScalar F a) (f2sqrtScalar F a) = (a, 0) := by
  have hcanon := f2sqrtScalar_canon hF ha
  refine (f2mul_eq_iff hF hcanon hcanon ⟨ha, hF.prime.pos⟩).2 ?_
  rw [f2sqrtScalar]
  have hcheck := fmul_fpow_sqrtExp_eq_iff hF hq ha
  split
  case isTrue hpass => simp [(fpow_sqrtExp_of_isSquare hF hq ha (hcheck.1 hpass)).2]
  case isFalse hfail => simp [fpow_sqrtExp_of_not_isSquare hF hq ha (mt hcheck.2 hfail)]

/-- One component is 0 and the other the candidate root. -/
theorem f2sqrtScalar_cases (F : Modulus) (a : Nat) :
    ((f2sqrtScalar F a).2 = 0 ∧ (f2sqrtScalar F a).1 = fpow F a F.sqrtExp) ∨
      ((f2sqrtScalar F a).1 = 0 ∧ (f2sqrtScalar F a).2 = fpow F a F.sqrtExp) := by
  rw [f2sqrtScalar]
  split
  case isTrue => exact .inl ⟨rfl, rfl⟩
  case isFalse => exact .inr ⟨rfl, rfl⟩

/-! ## The square root of a genuine pair -/

/-- Of two numbers with the product −(d/2)² one is a square: where the first is none, its candidate root squares to its
negation, and d/2 over that root is a root of the second. -/
theorem isSquare_of_mul_eq_neg_sq {b d : Nat} (hF : F.Ok) (hq : F.q % 4 = 3) (ha : a < F.q)
    (h : (2 * a * (2 * b) : ZMod F.q) = -(d * d)) (hnot : ¬IsSquare (a : ZMod F.q)) : IsSquare (b : ZMod F.q) := by
  have : Fact F.q.Prime := ⟨hF.prime⟩
  have hroot := fpow_sqrtExp_of_not_isSquare hF hq ha hnot
  have htwo : (2 : ZMod F.q) ≠ 0 := left_ne_zero_of_mul_eq_one hF.two_mul_inv2
  have hpow : (fpow F a F.sqrtExp : ZMod F.q) ≠ 0 := fun hzero => hnot ⟨0, by simpa [hzero] using hroot⟩
  refine ⟨d / (2 * fpow F a F.sqrtExp), ?_⟩
  field_simp
  linear_combination 4 * (b : ZMod F.q) * hroot - h

/-- Completion (iii) of R89: of the two halves (−x1 ± sΔ)/2 one is a square, and the second component b is its candidate
root. That b² is one of the halves is said as (2b² + x1)² = sΔ². -/
theorem f2sqrtImag_spec {d sD : Nat} (hF : F.Ok) (hq : F.q % 4 = 3) (ha : a < F.q) (hs : sD < F.q)
    (hnorm : (sD * sD : ZMod F.q) = a * a + d * d) :
    IsSquare (f2sqrtImag F a sD : ZMod F.q) ∧
      (2 * (f2sqrtImag F a sD * f2sqrtImag F a sD) + a : ZMod F.q) ^ 2 = sD * sD := by
  have hneg := fneg_lt ha
  have hadd := fadd_lt hneg hs
  have hsub := fsub_lt hneg hs
  have hplus : (2 * fmul F (fadd F (fneg F a) sD) F.inv2 : ZMod F.q) = -a + sD := by
    rw [two_mul_fmul_inv2_cast hF hadd, fadd_cast hneg hs, fneg_cast ha]
  have hminus : (2 * fmul F (fsub F (fneg F a) sD) F.inv2 : ZMod F.q) = -a - sD := by
    rw [two_mul_fmul_inv2_cast hF hsub, fsub_cast hneg hs, fneg_cast ha]
  have hplusLt := fmul_lt hF.mers hadd hF.inv2_lt
  have hminusLt := fmul_lt hF.mers hsub hF.inv2_lt
  rw [f2sqrtImag]
  have hcheck := fmul_fpow_sqrtExp_eq_iff hF hq hplusLt
  split
  case isTrue hfail =>
    have hprod : (2 * fmul F (fadd F (fneg F a) sD) F.inv2 * (2 * fmul F (fsub F (fneg F a) sD) F.inv2) : ZMod F.q) =
        -(d * d) := by
      rw [hplus, hminus]
      linear_combination -hnorm
    obtain ⟨hsquare, hroot⟩ :=
      fpow_sqrtExp_of_isSquare hF hq hminusLt (isSquare_of_mul_eq_neg_sq hF hq hplusLt hprod (mt hcheck.2 hfail))
    exact ⟨hsquare, by rw [hroot, hminus]; ring⟩
  case isFalse hpass =>
    obtain ⟨hsquare, hroot⟩ := fpow_sqrtExp_of_isSquare hF hq hplusLt (hcheck.1 (not_not.1 hpass))
    exact ⟨hsquare, by rw [hroot, hplus]; ring⟩

/-- With the second component b a root of (−x1 ± sΔ)/2, the first one x2 / (2b) makes a root of the pair (R89). -/
theorem f2mul_self_of_imag {b bi : Nat} (hF : F.Ok) (hx : Fp2.Canon F x) (hb : b < F.q) (hbi : bi < F.q)
    (hinv : (bi * b : ZMod F.q) = 1) (himag : (2 * (b * b) + x.1 : ZMod F.q) ^ 2 = x.1 * x.1 + x.2 * x.2) :
    f2mul F (fmul F (fmul F x.2 F.inv2) bi, b) (fmul F (fmul F x.2 F.inv2) bi, b) = x := by
  have hhalf := fmul_lt hF.mers hx.2 hF.inv2_lt
  have hcanon : Fp2.Canon F (fmul F (fmul F x.2 F.inv2) bi, b) := ⟨fmul_lt hF.mers hhalf hbi, hb⟩
  have hone : (2 * F.inv2 * (bi * b) : ZMod F.q) = 1 := by rw [hF.two_mul_inv2, hinv, one_mul]
  rw [f2mul_eq_iff hF hcanon hcanon hx, fmul_cast hF.mers hhalf hbi, fmul_cast hF.mers hx.2 hF.inv2_lt]
  constructor
  · linear_combination (b * b + x.1) * (2 * F.inv2 * (bi * b) + 1) * hone - (F.inv2 * bi : ZMod F.q) ^ 2 * himag
  · linear_combination (x.2 : ZMod F.q) * hone

/-- A genuine pair whose norm is a square has the root that R89 computes. -/
theorem f2sqrt_of_isSquare_norm (hF : F.Ok) (hq : F.q % 4 = 3) (hx : Fp2.Canon F x) (hne : x.2 ≠ 0)
    (hsquare : IsSquare (f2norm F x : ZMod F.q)) :
    ∃ r, f2sqrt F x = .ok r ∧ f2mul F r r = x ∧ IsSquare (r.2 : ZMod F.q) := by
  have : Fact F.q.Prime := ⟨hF.prime⟩
  have hnorm := f2norm_lt hF hx
  have hroot : (fpow F (f2norm F x) F.sqrtExp * fpow F (f2norm F x) F.sqrtExp : ZMod F.q) = x.1 * x.1 + x.2 * x.2 :=
    (fpow_sqrtExp_of_isSquare hF hq hnorm hsquare).2.trans (f2norm_cast hF hx)
  obtain ⟨hb, himag⟩ := f2sqrtImag_spec hF hq hx.1 (fpow_lt hF hnorm) hroot
  have hlt := f2sqrtImag_lt hF hx.1 (fpow_lt (e := F.sqrtExp) hF hnorm)
  rw [hroot] at himag
  have hok : f2sqrt F x = finv F (f2sqrtImag F x.1 (fpow F (f2norm F x) F.sqrtExp)) >>= fun bi =>
      .ok (fmul F (fmul F x.2 F.inv2) bi, f2sqrtImag F x.1 (fpow F (f2norm F x) F.sqrtExp)) := by
    rw [f2sqrt, if_neg hne]
    exact if_neg (not_not.2 ((fmul_fpow_sqrtExp_eq_iff hF hq hnorm).2 hsquare))
  generalize f2sqrtImag F x.1 (fpow F (f2norm F x) F.sqrtExp) = b at hb himag hlt hok
  have hx2 : (x.2 : ZMod F.q) ≠ 0 := fun h => hne ((cast_eq_zero_iff hx.2).1 h)
  have hb0 : b ≠ 0 := by
    rintro rfl
    exact hx2 (mul_self_eq_zero.1 (by simpa [sq] using himag))
  obtain ⟨bi, hbi, hbilt, hinv⟩ := finv_spec hF hlt hb0
  rw [hbi] at hok
  exact ⟨_, hok, f2mul_self_of_imag hF hx hlt hbilt hinv himag, hb⟩

/-- The norm is multiplicative, so the norm of a square is a square. -/
theorem isSquare_f2norm_of_square (hF : F.Ok) (hx : Fp2.Canon F x) (hy : Fp2.Canon F y) (h : f2mul F y y = x) :
    IsSquare (f2norm F x : ZMod F.q) := by
  obtain ⟨hfst, hsnd⟩ := (f2mul_eq_iff hF hy hy hx).1 h
  exact ⟨y.1 * y.1 + y.2 * y.2, by rw [f2norm_cast hF hx, ← hfst, ← hsnd]; ring⟩

/-- Completion (ii) of R89: the norm of a genuine pair is checked before anything is computed from its root. -/
theorem f2sqrt_of_not_isSquare_norm (hF : F.Ok) (hq : F.q % 4 = 3) (hx : Fp2.Canon F x) (hne : x.2 ≠ 0)
    (hnot : ¬IsSquare (f2norm F x : ZMod F.q)) : f2sqrt F x = .error .notASquare := by
  rw [f2sqrt, if_neg hne]
  exact if_pos fun h => hnot ((fmul_fpow_sqrtExp_eq_iff hF hq (f2norm_lt hF hx)).1 h)

/-! ## The square root in all cases -/

/-- A square has the root that R89 computes, and which of the two it is. -/
theorem f2sqrt_of_square (hF : F.Ok) (hq : F.q % 4 = 3) (hx : Fp2.Canon F x) (hy : Fp2.Canon F y)
    (h : f2mul F y y = x) :
    ∃ r, f2sqrt F x = .ok r ∧ f2mul F r r = x ∧
      (x.2 = 0 → (r.2 = 0 ∧ r.1 = fpow F x.1 F.sqrtExp) ∨ (r.1 = 0 ∧ r.2 = fpow F x.1 F.sqrtExp)) ∧
      (x.2 ≠ 0 → IsSquare (r.2 : ZMod F.q)) := by
  by_cases hzero : x.2 = 0
  · have hmul : f2mul F (f2sqrtScalar F x.1) (f2sqrtScalar F x.1) = x :=
      (f2mul_f2sqrtScalar hF hq hx.1).trans (Prod.ext rfl hzero.symm)
    exact ⟨_, if_pos hzero, hmul, fun _ => f2sqrtScalar_cases F x.1, fun hne => absurd hzero hne⟩
  · obtain ⟨r, hok, hmul, hsquare⟩ := f2sqrt_of_isSquare_norm hF hq hx hzero (isSquare_f2norm_of_square hF hx hy h)
    exact ⟨r, hok, hmul, fun hscalar => absurd hscalar hzero, fun _ => hsquare⟩

/-- A pair that no canonical pair squares to is genuine and its norm is no square. -/
theorem f2sqrt_of_no_root (hF : F.Ok) (hq : F.q % 4 = 3) (hx : Fp2.Canon F x)
    (hnone : ∀ y, Fp2.Canon F y → f2mul F y y ≠ x) : f2sqrt F x = .error .notASquare := by
  have hne : x.2 ≠ 0 := fun hzero => hnone _ (f2sqrtScalar_canon hF hx.1)
    ((f2mul_f2sqrtScalar hF hq hx.1).trans (Prod.ext rfl hzero.symm))
  refine f2sqrt_of_not_isSquare_norm hF hq hx hne fun hsquare => ?_
  obtain ⟨r, hok, hmul, -⟩ := f2sqrt_of_isSquare_norm hF hq hx hne hsquare
  exact hnone r (f2sqrt_canon hF hx hok) hmul

end

/-! ## The commands -/

/-- Settles O41: the invariant makes the modulus a field's, and the product of R87 is the pair of residues. -/
theorem f2mulWritesTheProduct : Obligations.F2mulWritesTheProduct := fun _ hs hv hq ha0 ha1 hb0 hb1 =>
  State.finish_fp2Binary hv hq ha0 ha1 hb0 hb1 (f2mul_eq (hs.modulus_ok hv) ⟨ha0, ha1⟩ ⟨hb0, hb1⟩)

section
variable {s : State}

/-- Error entry of a one-operand Fp2 command whose function has no value at its canonical operand. -/
theorem State.finish_fp2Unary_error {f : Modulus → Fp2 → Except CmdError Fp2} {e : CmdError} (hv : s.cfgValid = true)
    (hq : s.q.toNat % 4 = 3) (ha0 : s.a0.toNat < s.q.toNat) (ha1 : s.a1.toNat < s.q.toNat)
    (he : f s.modulus s.opX = .error e) : s.finish (s.fp2Unary f) = .next (s.withError e.code) :=
  State.finish_of_error (State.fp2Unary_error.2
    (.inr ⟨hv, .inr ⟨hq, .inr ⟨State.canonical_iff.2 (by simp [ha0, ha1]), he⟩⟩⟩))

theorem State.opX_eq_zero_iff : s.opX = (0, 0) ↔ s.a0 = 0#32 ∧ s.a1 = 0#32 := by
  rw [State.opX, Prod.mk_inj]
  exact and_congr (BitVec.toNat_inj (y := 0#32)) (BitVec.toNat_inj (y := 0#32))

end

/-- Settles O42: the norm is 0 at (0, 0) alone; elsewhere the conjugate over it is the inverse. -/
theorem f2invWritesTheInverse : Obligations.F2invWritesTheInverse := by
  intro s hs hv hq ha0 ha1
  have hF := hs.modulus_ok hv
  have hx : Fp2.Canon s.modulus s.opX := ⟨ha0, ha1⟩
  refine ⟨fun hne => ?_, fun hzero0 hzero1 => ?_⟩
  · obtain ⟨r, hok, hmul⟩ := f2inv_spec hF hq hx (mt State.opX_eq_zero_iff.1 hne)
    have hr := f2inv_canon hF hx hok
    rw [f2mul_eq hF hr hx, Prod.mk_inj] at hmul
    exact ⟨r.1, r.2, hr.1, hr.2, hmul.1, hmul.2, State.finish_fp2Unary hv hq ha0 ha1 hok⟩
  · have hzero : s.opX = (0, 0) := State.opX_eq_zero_iff.2 ⟨hzero0, hzero1⟩
    exact State.finish_fp2Unary_error hv hq ha0 ha1 (hzero ▸ f2inv_zero hF)

/-- Settles O43: a scalar always has a root; a genuine pair has one exactly when its norm is a square. -/
theorem f2sqrtWritesARootOrRaisesNotASquare : Obligations.F2sqrtWritesARootOrRaisesNotASquare := by
  intro s hs hv hq ha0 ha1
  have hF := hs.modulus_ok hv
  have hx : Fp2.Canon s.modulus s.opX := ⟨ha0, ha1⟩
  refine ⟨?root, ?none⟩
  case root =>
    rintro ⟨y0, y1, hy0, hy1, hfst, hsnd⟩
    have hy : Fp2.Canon s.modulus (y0, y1) := ⟨hy0, hy1⟩
    obtain ⟨r, hok, hmul, hscalar, hgenuine⟩ := f2sqrt_of_square hF hq hx hy ((f2mul_self_eq_iff hF hy).2 ⟨hfst, hsnd⟩)
    have hr := f2sqrt_canon hF hx hok
    obtain ⟨hfst', hsnd'⟩ := (f2mul_self_eq_iff hF hr).1 hmul
    refine ⟨r.1, r.2, hr.1, hr.2, hfst', hsnd', fun hzero => ?_, fun hne => ?_, State.finish_fp2Unary hv hq ha0 ha1 hok⟩
    · exact fpow_eq hF ha0 _ ▸ hscalar (congrArg BitVec.toNat hzero)
    · exact (isSquare_cast_iff hF hr.2).1 (hgenuine fun h => hne (BitVec.eq_of_toNat_eq h))
  case none =>
    intro hnone
    have hnot (y : Fp2) (hy : Fp2.Canon s.modulus y) : f2mul s.modulus y y ≠ s.opX := fun h =>
      hnone ⟨y.1, y.2, hy.1, hy.2, (f2mul_self_eq_iff hF hy).1 h⟩
    exact State.finish_fp2Unary_error hv hq ha0 ha1 (f2sqrt_of_no_root hF hq hx hnot)

end Sys2Proof.Machine
end

section
/-! The iterative networks are the recursive ones: every stage but the one with `t` = 1 acts on the even-indexed and on the
odd-indexed elements apart, and that one is `merge_ntt`, or `split_ntt` without its factor 1/2 (`45_ntt_recursive.md` R122 to
R125, R128). Nothing is asked of the element arithmetic. -/

namespace Sys2Proof.Machine

section
variable {α : Type} {K : ElemOps α} {root : Nat → α} {e o f : List α}

/-! ## Interleaved sequences -/

theorem mergeSeq_evens_odds (hf : f.length % 2 = 0) : mergeSeq (evens f) (odds f) = f := by
  induction f using evens.induct with
  | case1 => rfl
  | case2 x => simp at hf
  | case3 x y xs ih =>
    simp only [List.length_cons] at hf
    rw [evens, odds, mergeSeq, ih (by omega)]

theorem evens_mergeSeq (h : e.length = o.length) : evens (mergeSeq e o) = e := by
  induction e generalizing o with
  | nil => rfl
  | cons x e ih =>
    cases o with
    | nil => simp at h
    | cons y o => rw [mergeSeq, evens, ih (by simpa using h)]

theorem odds_mergeSeq (h : e.length = o.length) : odds (mergeSeq e o) = o := by
  induction e generalizing o with
  | nil => exact (List.length_eq_zero_iff.1 h.symm).symm
  | cons x e ih =>
    cases o with
    | nil => simp at h
    | cons y o => rw [mergeSeq, odds, ih (by simpa using h)]

theorem getD_mergeSeq (h : e.length = o.length) (j : Nat) (d : α) :
    (mergeSeq e o).getD (2 * j) d = e.getD j d ∧ (mergeSeq e o).getD (2 * j + 1) d = o.getD j d := by
  induction e generalizing o j with
  | nil => simp [List.length_eq_zero_iff.1 h.symm, mergeSeq]
  | cons x e ih =>
    cases o with
    | nil => simp at h
    | cons y o =>
      cases j with
      | zero => simp [mergeSeq]
      | succ j => simpa only [mergeSeq, Nat.mul_succ, List.getD_cons_succ] using ih (by simpa using h) j

theorem set_mergeSeq (h : e.length = o.length) (j : Nat) (v : α) :
    (mergeSeq e o).set (2 * j) v = mergeSeq (e.set j v) o ∧ (mergeSeq e o).set (2 * j + 1) v = mergeSeq e (o.set j v) := by
  induction e generalizing o j with
  | nil => simp [List.length_eq_zero_iff.1 h.symm, mergeSeq]
  | cons x e ih =>
    cases o with
    | nil => simp at h
    | cons y o =>
      cases j with
      | zero => simp [mergeSeq]
      | succ j =>
        obtain ⟨heven, hodd⟩ := ih (o := o) (by simpa using h) j
        simp only [mergeSeq, Nat.mul_succ, List.set_cons_succ, heven, hodd, and_self]

/-! ## Stages on interleaved sequences -/

/-- A stage with butterfly `b`: `m` groups of size 2t, group `i` under table entry m + i. -/
def inPlaceStage (b : α → Nat → Nat → List α → List α) (root : Nat → α) (m t : Nat) (a : List α) : List α :=
  (List.range m).foldl (fun a i => (List.range t).foldl (fun a r => b (root (m + i)) t (2 * i * t + r) a) a) a

theorem fwdStage_eq (m t : Nat) (a : List α) : fwdStage K root m t a = inPlaceStage (fwdButterfly K) root m t a := rfl

theorem invStage_eq (m t : Nat) (a : List α) : invStage K root m t a = inPlaceStage (invButterfly K) root m t a := rfl

/-- A butterfly with twice the distance works on the even-indexed or on the odd-indexed elements. -/
structure Interleaves (b : α → Nat → Nat → List α → List α) : Prop where
  length : ∀ S t j a, (b S t j a).length = a.length
  even : ∀ S t j e o, e.length = o.length → b S (2 * t) (2 * j) (mergeSeq e o) = mergeSeq (b S t j e) o
  odd : ∀ S t j e o, e.length = o.length → b S (2 * t) (2 * j + 1) (mergeSeq e o) = mergeSeq e (b S t j o)

/-- Two positions a distance apart, written in place from what stands there. -/
theorem interleaves_of_pair (z : α) (u v : α → α → α → α) :
    Interleaves fun S t j a => (a.set j (u S (a.getD j z) (a.getD (j + t) z))).set (j + t)
      (v S (a.getD j z) (a.getD (j + t) z)) where
  length S t j a := by simp
  even S t j e o h := by
    have hj : 2 * j + 2 * t = 2 * (j + t) := by ring
    simp only [hj, (getD_mergeSeq h _ _).1, (set_mergeSeq h _ _).1]
    rw [(set_mergeSeq (by simpa using h) _ _).1]
  odd S t j e o h := by
    have hj : 2 * j + 1 + 2 * t = 2 * (j + t) + 1 := by ring
    simp only [hj, (getD_mergeSeq h _ _).2, (set_mergeSeq h _ _).2]
    rw [(set_mergeSeq (by simpa using h) _ _).2]

theorem fwdButterfly_interleaves : Interleaves (fwdButterfly K) :=
  interleaves_of_pair K.zero (fun S x y => K.add x (K.mul y S)) fun S x y => K.sub x (K.mul y S)

theorem invButterfly_interleaves : Interleaves (invButterfly K) :=
  interleaves_of_pair K.zero (fun _ x y => K.add x y) fun S x y => K.mul (K.sub x y) S

section
variable {b : α → Nat → Nat → List α → List α}

theorem Interleaves.group (hb : Interleaves b) (S : α) (t start n : Nat) (h : e.length = o.length) :
    (List.range (2 * n)).foldl (fun a r => b S (2 * t) (2 * start + r) a) (mergeSeq e o) =
      mergeSeq ((List.range n).foldl (fun a r => b S t (start + r) a) e)
        ((List.range n).foldl (fun a r => b S t (start + r) a) o) := by
  induction n with
  | zero => rfl
  | succ n ih =>
    have hkeep (a : List α) : ((List.range n).foldl (fun a r => b S t (start + r) a) a).length = a.length :=
      foldl_length (fun _ _ => hb.length _ _ _ _) _ _
    have hlast : 2 * start + 2 * n = 2 * (start + n) := by ring
    rw [Nat.mul_succ, List.range_succ, List.range_succ, List.range_succ]
    simp only [List.foldl_append, List.foldl_cons, List.foldl_nil, ih, hlast, ← Nat.add_assoc]
    rw [hb.even _ _ _ _ _ (by rw [hkeep, hkeep, h]), hb.odd _ _ _ _ _ (by rw [hb.length, hkeep, hkeep, h])]

theorem Interleaves.stage (hb : Interleaves b) (m t : Nat) (h : e.length = o.length) :
    inPlaceStage b root m (2 * t) (mergeSeq e o) =
      mergeSeq (inPlaceStage b root m t e) (inPlaceStage b root m t o) := by
  unfold inPlaceStage
  generalize List.range m = groups
  induction groups generalizing e o with
  | nil => rfl
  | cons i groups ih =>
    have hstart : 2 * i * (2 * t) = 2 * (2 * i * t) := by ring
    have hkeep (a : List α) :
        ((List.range t).foldl (fun a r => b (root (m + i)) t (2 * i * t + r) a) a).length = a.length :=
      foldl_length (fun _ _ => hb.length _ _ _ _) _ _
    simp only [List.foldl_cons, hstart, hb.group _ _ _ _ h]
    exact ih (by rw [hkeep, hkeep, h])

/-- A stage with `t` = 1 is a pass over adjacent pairs, entry m + i serving pair `i`. -/
theorem inPlaceStage_one {m : Nat} {pass : Nat → List α → List α} (hnil : ∀ i, pass i [] = [])
    (hcons : ∀ i x y xs pre, pre.length = 2 * i → ∃ x' y',
      b (root (m + i)) 1 (2 * i) (pre ++ x :: y :: xs) = pre ++ x' :: y' :: xs ∧
        pass i (x :: y :: xs) = x' :: y' :: pass (i + 1) xs)
    (hf : f.length = 2 * m) : inPlaceStage b root m 1 f = pass 0 f := by
  have hpass (n i : Nat) (pre f : List α) (hpre : pre.length = 2 * i) (hf : f.length = 2 * n) :
      (List.range' i n).foldl (fun a i => b (root (m + i)) 1 (2 * i) a) (pre ++ f) = pre ++ pass i f := by
    induction n generalizing i pre f with
    | zero => simp [List.length_eq_zero_iff.1 hf, hnil]
    | succ n ih =>
      match f, hf with
      | x :: y :: xs, hf =>
        obtain ⟨x', y', hb, hp⟩ := hcons i x y xs pre hpre
        have hrest := ih (i + 1) (pre ++ [x', y']) xs (by simp [hpre, Nat.mul_succ]) (by simpa [Nat.mul_succ] using hf)
        simp only [List.append_assoc, List.cons_append, List.nil_append] at hrest
        rw [List.range'_succ, List.foldl_cons, hb, hp, hrest]
  simpa [inPlaceStage, List.range_eq_range'] using hpass m 0 [] f rfl hf

end

/-! ## The forward network -/

theorem fwdStage_one {m : Nat} (hf : f.length = 2 * m) :
    fwdStage K root m 1 f = mergeNttFrom K root m 0 (evens f) (odds f) := by
  refine inPlaceStage_one (pass := fun i f => mergeNttFrom K root m i (evens f) (odds f))
    (fun _ => by simp [evens, mergeNttFrom]) (fun i x y xs pre hpre => ⟨_, _, ?_, rfl⟩) hf
  simp [fwdButterfly, ← hpre]

theorem fwdStages_mergeSeq (k m : Nat) (h : e.length = o.length) :
    fwdStages K root k (2 * 2 ^ k) m (mergeSeq e o) =
      mergeSeq (fwdStages K root k (2 ^ k) m e) (fwdStages K root k (2 ^ k) m o) := by
  induction k generalizing m e o with
  | zero => rfl
  | succ k ih =>
    have hhalf : 2 ^ (k + 1) / 2 = 2 ^ k := by rw [pow_succ, Nat.mul_div_cancel _ two_pos]
    have htwo : 2 * 2 ^ (k + 1) / 2 = 2 * 2 ^ k := by rw [Nat.mul_div_cancel_left _ two_pos, pow_succ']
    simp only [fwdStages, hhalf, htwo]
    rw [← ih _ (by simpa using h), fwdStage_eq, fwdStage_eq, fwdStage_eq, fwdButterfly_interleaves.stage m _ h]

theorem fwdStages_succ (k t m : Nat) (a : List α) :
    fwdStages K root (k + 1) t m a = fwdStage K root (m * 2 ^ k) (t / 2 ^ (k + 1)) (fwdStages K root k t m a) := by
  induction k generalizing t m a with
  | zero => simp [fwdStages]
  | succ k ih =>
    have hm : 2 * m * 2 ^ k = m * 2 ^ (k + 1) := by ring
    have ht : t / 2 / 2 ^ (k + 1) = t / 2 ^ (k + 1 + 1) := by rw [Nat.div_div_eq_div_mul, ← pow_succ']
    rw [fwdStages, ih, fwdStages, hm, ht]

theorem length_evens_odds {k : Nat} (hf : f.length = 2 ^ (k + 1)) :
    (evens f).length = 2 ^ k ∧ (odds f).length = 2 ^ k := by
  rw [pow_succ] at hf
  rw [evens_length, odds_length]
  omega

/-- The last stage of the forward network merges the networks of the two halves. -/
theorem nttCore_succ {k : Nat} (hf : f.length = 2 ^ (k + 1)) :
    nttCore K root (k + 1) f = mergeNtt K root (nttCore K root k (evens f)) (nttCore K root k (odds f)) := by
  obtain ⟨he, ho⟩ := length_evens_odds hf
  have hlen : (nttCore K root k (evens f)).length = (nttCore K root k (odds f)).length := by simp [he, ho]
  have hmerge : fwdStages K root k (2 * 2 ^ k) 1 f = mergeSeq (nttCore K root k (evens f)) (nttCore K root k (odds f)) := by
    rw [nttCore, nttCore, ← fwdStages_mergeSeq _ _ (he.trans ho.symm), mergeSeq_evens_odds (by rw [hf, pow_succ]; omega)]
  rw [nttCore, fwdStages_succ, Nat.div_self (by positivity), one_mul, pow_succ', hmerge,
    fwdStage_one (by rw [mergeSeq_length hlen, nttCore_length, he]), evens_mergeSeq hlen, odds_mergeSeq hlen, mergeNtt,
    nttCore_length, he]

theorem nttRec_succ {k : Nat} (hf : f.length = 2 ^ (k + 1)) :
    nttRec K root (k + 1) f = mergeNtt K root (nttRec K root k (evens f)) (nttRec K root k (odds f)) := by
  cases k with
  | succ k => rfl
  | zero =>
    match f, hf with
    | [x, y], _ => rfl

/-- R128 (a): the two forward engines compute one function. -/
theorem nttRec_eq_nttCore {k : Nat} (hf : f.length = 2 ^ k) : nttRec K root k f = nttCore K root k f := by
  induction k generalizing f with
  | zero => rfl
  | succ k ih =>
    obtain ⟨he, ho⟩ := length_evens_odds hf
    rw [nttRec_succ hf, nttCore_succ hf, ih he, ih ho]

/-! ## The inverse network -/

/-- The operations of `K` with scalars left out. -/
def ElemOps.unscaled (K : ElemOps α) : ElemOps α := { K with scale := fun x _ => x }

theorem invStage_one {m : Nat} (c : Nat) (hf : f.length = 2 * m) :
    invStage K root m 1 f =
      mergeSeq (splitNttFrom c K.unscaled root m 0 f).1 (splitNttFrom c K.unscaled root m 0 f).2 := by
  refine inPlaceStage_one (pass := fun i f => mergeSeq (splitNttFrom c K.unscaled root m i f).1
    (splitNttFrom c K.unscaled root m i f).2) (fun _ => rfl) (fun i x y xs pre hpre => ⟨_, _, ?_, rfl⟩) hf
  simp [invButterfly, ← hpre, ElemOps.unscaled]

theorem invStages_mergeSeq (k t m : Nat) (h : e.length = o.length) :
    invStages K root k (2 * t) m (mergeSeq e o) = mergeSeq (invStages K root k t m e) (invStages K root k t m o) := by
  induction k generalizing t m e o with
  | zero => rfl
  | succ k ih =>
    simp only [invStages]
    rw [← ih _ _ (by simpa using h), invStage_eq, invStage_eq, invStage_eq, invButterfly_interleaves.stage _ _ h]

theorem inttRec_succ {c k : Nat} (hf : f.length = 2 ^ (k + 1)) :
    inttRec c K root (k + 1) f =
      mergeSeq (inttRec c K root k (splitNtt c K root f).1) (inttRec c K root k (splitNtt c K root f).2) := by
  cases k with
  | succ k => rfl
  | zero =>
    match f, hf with
    | [x, y], _ => simp [inttRec, splitNtt, splitNttFrom, mergeSeq]

theorem splitNtt_length {c k : Nat} (hf : f.length = 2 ^ (k + 1)) :
    (splitNtt c K root f).1.length = 2 ^ k ∧ (splitNtt c K root f).2.length = 2 ^ k := by
  have hhalf : f.length / 2 = 2 ^ k := by rw [hf, pow_succ, Nat.mul_div_cancel _ two_pos]
  exact hhalf ▸ splitNttFrom_length c root (f.length / 2) 0 f

/-- The stages of the inverse network are the recursive engine without its factors 1/2. -/
theorem invStages_eq_inttRec (c : Nat) {k : Nat} (hf : f.length = 2 ^ k) :
    invStages K root k 1 (2 ^ k) f = inttRec c K.unscaled root k f := by
  induction k generalizing f with
  | zero => rfl
  | succ k ih =>
    obtain ⟨hlen1, hlen2⟩ := splitNtt_length (K := K.unscaled) (root := root) (c := c) hf
    have hhalf : 2 ^ (k + 1) / 2 = 2 ^ k := by rw [pow_succ, Nat.mul_div_cancel _ two_pos]
    have hstage : invStage K root (2 ^ k) 1 f =
        mergeSeq (splitNtt c K.unscaled root f).1 (splitNtt c K.unscaled root f).2 := by
      rw [invStage_one c (by rw [hf, pow_succ']), splitNtt, hf, hhalf]
    have hrest := invStages_mergeSeq (K := K) (root := root) k 1 (2 ^ k) (hlen1.trans hlen2.symm)
    rw [inttRec_succ hf, invStages, hhalf, hstage, hrest, ih hlen1, ih hlen2]

end

end Sys2Proof.Machine
end

section
/-! The networks in the ring of residues. A map of elements to a commutative ring that respects the operations carries each
network to the same network over the ring. There the forward network evaluates a polynomial at the odd powers of ψ
(`43_root_table.md` R106), the two inverse networks differ in where they scale (`45_ntt_recursive.md` R128), and the inverse
one undoes the forward one (`44_ntt_iterative.md` R120). -/

namespace Sys2Proof.Machine

/-! ## Networks under a map of elements -/

/-- `φ` carries the operations of `K` on the elements with `P`, and scalars below `q`, to those of `K'`. -/
structure ElemOps.Hom {α β : Type} (K : ElemOps α) (K' : ElemOps β) (q : Nat) (P : α → Prop) (φ : α → β) :
    Prop where
  closed : K.Closed q P
  add : ∀ {x y}, P x → P y → φ (K.add x y) = K'.add (φ x) (φ y)
  sub : ∀ {x y}, P x → P y → φ (K.sub x y) = K'.sub (φ x) (φ y)
  mul : ∀ {x y}, P x → P y → φ (K.mul x y) = K'.mul (φ x) (φ y)
  scale : ∀ {x c}, P x → c < q → φ (K.scale x c) = K'.scale (φ x) c

section
variable {α β : Type} {K : ElemOps α} {K' : ElemOps β} {q : Nat} {P : α → Prop} {φ : α → β} {root : Nat → α}
  {e o f : List α}

theorem ElemOps.Closed.unscaled (hK : K.Closed q P) : K.unscaled.Closed q P :=
  ⟨hK.zero, hK.add, hK.sub, hK.mul, fun hx _ => hx⟩

theorem ElemOps.Hom.unscaled (h : K.Hom K' q P φ) : K.unscaled.Hom K'.unscaled q P φ :=
  ⟨h.closed.unscaled, h.add, h.sub, h.mul, fun _ _ => rfl⟩

theorem map_evens_odds (φ : α → β) (f : List α) :
    (evens f).map φ = evens (f.map φ) ∧ (odds f).map φ = odds (f.map φ) := by
  induction f using evens.induct with
  | case1 => simp [evens, odds]
  | case2 => simp [evens, odds]
  | case3 x y xs ih => simp [evens, odds, ih]

theorem map_mergeSeq (φ : α → β) (e o : List α) : (mergeSeq e o).map φ = mergeSeq (e.map φ) (o.map φ) := by
  induction e, o using mergeSeq.induct with
  | case1 x xs y ys ih => simp [mergeSeq, ih]
  | case2 e o h =>
    match e, o with
    | [], _ => simp [mergeSeq]
    | _ :: _, [] => simp [mergeSeq]
    | x :: xs, y :: ys => exact absurd rfl (h x xs y ys rfl)

theorem ElemOps.Hom.map_mergeNttFrom (h : K.Hom K' q P φ) {m i : Nat}
    (hroot : ∀ j, i ≤ j → j < i + e.length → P (root (m + j))) (he : ∀ x ∈ e, P x) (ho : ∀ x ∈ o, P x) :
    (mergeNttFrom K root m i e o).map φ = mergeNttFrom K' (φ ∘ root) m i (e.map φ) (o.map φ) := by
  induction e generalizing o i with
  | nil => simp [mergeNttFrom]
  | cons x e ih =>
    cases o with
    | nil => simp [mergeNttFrom]
    | cons y o =>
      rw [List.length_cons] at hroot
      rw [List.forall_mem_cons] at he ho
      have hr := hroot i le_rfl (by omega)
      have hV := h.closed.mul ho.1 hr
      have hrest := ih (o := o) (i := i + 1) (fun j h1 h2 => hroot j (by omega) (by omega)) he.2 ho.2
      simp only [mergeNttFrom, List.map_cons, Function.comp_apply, h.add he.1 hV, h.sub he.1 hV, h.mul ho.1 hr, hrest]

theorem ElemOps.Hom.map_splitNttFrom (h : K.Hom K' q P φ) {c m i : Nat} (hc : c < q)
    (hroot : ∀ j, i ≤ j → j < i + f.length / 2 → P (root (m + j))) (hf : ∀ x ∈ f, P x) :
    splitNttFrom c K' (φ ∘ root) m i (f.map φ) =
      ((splitNttFrom c K root m i f).1.map φ, (splitNttFrom c K root m i f).2.map φ) := by
  induction f using evens.induct generalizing i with
  | case1 => rfl
  | case2 => rfl
  | case3 x y xs ih =>
    simp only [List.length_cons] at hroot
    simp only [List.forall_mem_cons] at hf
    obtain ⟨hx, hy, hxs⟩ := hf
    have hr := hroot i le_rfl (by omega)
    have hadd := h.closed.add hx hy
    have hsub := h.closed.sub hx hy
    have hrest := ih (i := i + 1) (fun j h1 h2 => hroot j (by omega) (by omega)) hxs
    simp only [splitNttFrom, List.map_cons, Function.comp_apply, hrest, h.scale hadd hc, h.add hx hy,
      h.mul (h.closed.scale hsub hc) hr, h.scale hsub hc, h.sub hx hy]

/-- A homomorphism carries the forward network over `K` to the one over `K'`. -/
theorem ElemOps.Hom.map_nttCore (h : K.Hom K' q P φ) {k : Nat} (hl : f.length = 2 ^ k)
    (hroot : ∀ j, 1 ≤ j → j < 2 ^ k → P (root j)) (hf : ∀ x ∈ f, P x) :
    (nttCore K root k f).map φ = nttCore K' (φ ∘ root) k (f.map φ) := by
  induction k generalizing f with
  | zero => rfl
  | succ k ih =>
    obtain ⟨he, ho⟩ := length_evens_odds hl
    obtain ⟨hmapE, hmapO⟩ := map_evens_odds φ f
    have htwo : 2 ^ (k + 1) = 2 ^ k + 2 ^ k := by rw [pow_succ]; omega
    have hpos : 0 < 2 ^ k := by positivity
    have hroot' : ∀ j, 1 ≤ j → j < 2 ^ k → P (root j) := fun j h1 h2 => hroot j h1 (by omega)
    have hmerge := h.map_mergeNttFrom (root := root) (m := 2 ^ k) (i := 0) (e := nttCore K root k (evens f))
      (o := nttCore K root k (odds f)) (fun j _ hj => hroot _ (by omega) (by rw [nttCore_length] at hj; omega))
      (nttCore_closed h.closed hroot' (evens_closed hf)) (nttCore_closed h.closed hroot' (odds_closed hf))
    rw [nttCore_succ hl, nttCore_succ (by rw [List.length_map, hl]), mergeNtt, mergeNtt, nttCore_length, nttCore_length, he,
      ← hmapE, ← hmapO, List.length_map, he, hmerge, ih he hroot' (evens_closed hf), ih ho hroot' (odds_closed hf)]

/-- A homomorphism carries the recursive inverse network over `K` to the one over `K'`. -/
theorem ElemOps.Hom.map_inttRec (h : K.Hom K' q P φ) {c k : Nat} (hc : c < q) (hl : f.length = 2 ^ k)
    (hroot : ∀ j, 1 ≤ j → j < 2 ^ k → P (root j)) (hf : ∀ x ∈ f, P x) :
    (inttRec c K root k f).map φ = inttRec c K' (φ ∘ root) k (f.map φ) := by
  induction k generalizing f with
  | zero => rfl
  | succ k ih =>
    have htwo : 2 ^ (k + 1) = 2 ^ k + 2 ^ k := by rw [pow_succ]; omega
    have hpos : 0 < 2 ^ k := by positivity
    have hroot' : ∀ j, 1 ≤ j → j < 2 ^ k → P (root j) := fun j h1 h2 => hroot j h1 (by omega)
    have hroot'' : ∀ j, 0 ≤ j → j < 0 + f.length / 2 → P (root (f.length / 2 + j)) := fun j _ hj =>
      hroot _ (by omega) (by omega)
    obtain ⟨hlenE, hlenO⟩ := splitNtt_length (K := K) (root := root) (c := c) hl
    obtain ⟨hE, hO⟩ := splitNttFrom_closed h.closed hc hroot'' hf
    have hsplit : splitNtt c K' (φ ∘ root) (f.map φ) =
        ((splitNtt c K root f).1.map φ, (splitNtt c K root f).2.map φ) := by
      rw [splitNtt, List.length_map]
      exact h.map_splitNttFrom hc hroot'' hf
    rw [inttRec_succ hl, inttRec_succ (by rw [List.length_map, hl]), hsplit, map_mergeSeq, ih hlenE hroot' hE,
      ih hlenO hroot' hO]

end

/-! ## Networks over a commutative ring -/

/-- The arithmetic of a commutative ring as element operations. -/
def ringOps (R : Type) [CommRing R] : ElemOps R where
  zero := 0
  add := fun x y => x + y
  sub := fun x y => x - y
  mul := fun x y => x * y
  scale := fun x c => x * c

section
variable {R : Type} [CommRing R] (x y : R) (c : Nat)

@[simp] theorem ringOps_add : (ringOps R).add x y = x + y := rfl
@[simp] theorem ringOps_sub : (ringOps R).sub x y = x - y := rfl
@[simp] theorem ringOps_mul : (ringOps R).mul x y = x * y := rfl
@[simp] theorem ringOps_scale : (ringOps R).scale x c = x * c := rfl
@[simp] theorem ringOps_unscaled_add : (ringOps R).unscaled.add x y = x + y := rfl
@[simp] theorem ringOps_unscaled_sub : (ringOps R).unscaled.sub x y = x - y := rfl
@[simp] theorem ringOps_unscaled_mul : (ringOps R).unscaled.mul x y = x * y := rfl
@[simp] theorem ringOps_unscaled_scale : (ringOps R).unscaled.scale x c = x := rfl

end

section
variable {R : Type} [CommRing R] {root iroot : Nat → R} {e o f : List R}

/-- A factor common to all elements goes through `split_ntt`, with the factor `c` that it puts to each element. -/
theorem splitNttFrom_map_mul (c d m i : Nat) (r : R) (f : List R) :
    splitNttFrom c (ringOps R) iroot m i (f.map fun x => x * r) =
      ((splitNttFrom d (ringOps R).unscaled iroot m i f).1.map fun x => x * (r * c),
        (splitNttFrom d (ringOps R).unscaled iroot m i f).2.map fun x => x * (r * c)) := by
  induction f using evens.induct generalizing i with
  | case1 => rfl
  | case2 => rfl
  | case3 x y xs ih =>
    have hadd : (x * r + y * r) * c = (x + y) * (r * c) := by ring
    have hsub : (x * r - y * r) * c * iroot (m + i) = (x - y) * iroot (m + i) * (r * c) := by ring
    simp [splitNttFrom, ih, hadd, hsub]

/-- The recursive inverse network scales by `c` at each of its `k` levels, which is once by `c`^k at the end. -/
theorem inttRec_map_mul (c d : Nat) (r : R) {k : Nat} (hf : f.length = 2 ^ k) :
    inttRec c (ringOps R) iroot k (f.map fun x => x * r) =
      (inttRec d (ringOps R).unscaled iroot k f).map fun x => x * (r * (c : R) ^ k) := by
  induction k generalizing f r with
  | zero => simp [inttRec]
  | succ k ih =>
    obtain ⟨hE, hO⟩ := splitNtt_length (K := (ringOps R).unscaled) (root := iroot) (c := d) hf
    have hpow : r * (c : R) ^ (k + 1) = r * c * (c : R) ^ k := by ring
    rw [inttRec_succ (by rw [List.length_map, hf]), inttRec_succ hf, splitNtt, List.length_map,
      splitNttFrom_map_mul c d, map_mergeSeq, hpow, ← splitNtt, ih _ hE, ih _ hO]

theorem splitNttFrom_mergeNttFrom {c m i : Nat} (hc : 2 * (c : R) = 1) (h : e.length = o.length)
    (hinv : ∀ j, i ≤ j → j < i + e.length → root (m + j) * iroot (m + j) = 1) :
    splitNttFrom c (ringOps R) iroot m i (mergeNttFrom (ringOps R) root m i e o) = (e, o) := by
  induction e generalizing o i with
  | nil => rw [List.length_eq_zero_iff.1 h.symm]; rfl
  | cons x e ih =>
    cases o with
    | nil => simp at h
    | cons y o =>
      rw [List.length_cons] at hinv
      have hr := hinv i le_rfl (by omega)
      have hrest := ih (o := o) (i := i + 1) (by simpa using h) fun j h1 h2 => hinv j (by omega) (by omega)
      have hfst : (x + y * root (m + i) + (x - y * root (m + i))) * c = x := by linear_combination x * hc
      have hsnd : (x + y * root (m + i) - (x - y * root (m + i))) * c * iroot (m + i) = y := by
        linear_combination 2 * c * y * hr + y * hc
      simp only [mergeNttFrom, splitNttFrom, hrest, ringOps_add, ringOps_sub, ringOps_mul, ringOps_scale, hfst, hsnd]

/-- Round trip: with inverse table entries and `c` = 1/2 the inverse network undoes the forward one. -/
theorem inttRec_nttCore {c k : Nat} (hc : 2 * (c : R) = 1) (hf : f.length = 2 ^ k)
    (hinv : ∀ j, 1 ≤ j → j < 2 ^ k → root j * iroot j = 1) :
    inttRec c (ringOps R) iroot k (nttCore (ringOps R) root k f) = f := by
  induction k generalizing f with
  | zero => rfl
  | succ k ih =>
    obtain ⟨he, ho⟩ := length_evens_odds hf
    have htwo : 2 ^ (k + 1) = 2 ^ k + 2 ^ k := by rw [pow_succ]; omega
    have hpos : 0 < 2 ^ k := by positivity
    have hlen : (nttCore (ringOps R) root k (evens f)).length = (nttCore (ringOps R) root k (odds f)).length := by
      rw [nttCore_length, nttCore_length, he, ho]
    have hinv' : ∀ j, 1 ≤ j → j < 2 ^ k → root j * iroot j = 1 := fun j h1 h2 => hinv j h1 (by omega)
    have hmid : (nttCore (ringOps R) root (k + 1) f).length = 2 ^ (k + 1) := by rw [nttCore_length, hf]
    have hsplit : splitNtt c (ringOps R) iroot (nttCore (ringOps R) root (k + 1) f) =
        (nttCore (ringOps R) root k (evens f), nttCore (ringOps R) root k (odds f)) := by
      rw [splitNtt, hmid, nttCore_succ hf, mergeNtt, nttCore_length, he, pow_succ, Nat.mul_div_cancel _ two_pos]
      exact splitNttFrom_mergeNttFrom hc hlen fun j _ hj => hinv _ (by omega) (by rw [nttCore_length] at hj; omega)
    rw [inttRec_succ hmid, hsplit, ih he hinv', ih ho hinv', mergeSeq_evens_odds (by omega)]

/-! ## Evaluation of polynomials -/

/-- The value at `x` of the polynomial with the coefficients of the list, constant term first. -/
def polyEval (x : R) : List R → R
  | [] => 0
  | c :: cs => c + x * polyEval x cs

theorem polyEval_eq_evens_odds (x : R) (f : List R) :
    polyEval x f = polyEval (x * x) (evens f) + x * polyEval (x * x) (odds f) := by
  induction f using evens.induct with
  | case1 => simp [evens, odds, polyEval]
  | case2 => simp [evens, odds, polyEval]
  | case3 c d cs ih => simp only [evens, odds, polyEval, ih]; ring

section
variable {α : Type} {K : ElemOps α} {root : Nat → α} {e o f : List α}

theorem getD_mergeNttFrom (h : e.length = o.length) {m i j : Nat} (hj : j < e.length) (d : α) :
    (mergeNttFrom K root m i e o).getD (2 * j) d = K.add (e.getD j d) (K.mul (o.getD j d) (root (m + (i + j)))) ∧
      (mergeNttFrom K root m i e o).getD (2 * j + 1) d =
        K.sub (e.getD j d) (K.mul (o.getD j d) (root (m + (i + j)))) := by
  induction e generalizing o i j with
  | nil => simp at hj
  | cons x e ih =>
    cases o with
    | nil => simp at h
    | cons y o =>
      cases j with
      | zero => simp [mergeNttFrom]
      | succ j =>
        have hi : i + (j + 1) = i + 1 + j := by omega
        simpa only [mergeNttFrom, Nat.mul_succ, List.getD_cons_succ, hi] using
          ih (i := i + 1) (by simpa using h) (by simpa using hj)

/-- Two neighbours of the forward network, from one element of the network of each half. -/
theorem getD_nttCore_succ {k i : Nat} (hf : f.length = 2 ^ (k + 1)) (hi : i < 2 ^ k) (d : α) :
    (nttCore K root (k + 1) f).getD (2 * i) d =
        K.add ((nttCore K root k (evens f)).getD i d)
          (K.mul ((nttCore K root k (odds f)).getD i d) (root (2 ^ k + i))) ∧
      (nttCore K root (k + 1) f).getD (2 * i + 1) d =
        K.sub ((nttCore K root k (evens f)).getD i d)
          (K.mul ((nttCore K root k (odds f)).getD i d) (root (2 ^ k + i))) := by
  obtain ⟨he, ho⟩ := length_evens_odds hf
  have hlen : (nttCore K root k (evens f)).length = (nttCore K root k (odds f)).length := by
    rw [nttCore_length, nttCore_length, he, ho]
  have hmerge := getD_mergeNttFrom (K := K) (root := root) hlen (m := 2 ^ k) (i := 0) (j := i)
    (by rwa [nttCore_length, he]) d
  rw [zero_add] at hmerge
  rwa [nttCore_succ hf, mergeNtt, nttCore_length, he]

end

/-! Bit reversal, by the lowest and by the highest bit. -/

theorem brv_of_lt {k j : Nat} (hj : j < 2 ^ k) : brv (k + 1) j = 2 * brv k j := by
  induction k generalizing j with
  | zero =>
    obtain rfl : j = 0 := by omega
    rfl
  | succ k ih =>
    rw [pow_succ] at hj
    rw [brv, ih (by omega), brv, pow_succ]
    ring

theorem brv_two_pow_add {k i : Nat} (hi : i < 2 ^ k) : brv (k + 1) (2 ^ k + i) = 2 * brv k i + 1 := by
  induction k generalizing i with
  | zero =>
    obtain rfl : i = 0 := by omega
    rfl
  | succ k ih =>
    rw [pow_succ] at hi
    have hmod : (2 ^ (k + 1) + i) % 2 = i % 2 := by rw [pow_succ]; omega
    have hdiv : (2 ^ (k + 1) + i) / 2 = 2 ^ k + i / 2 := by rw [pow_succ]; omega
    rw [brv, hmod, hdiv, ih (by omega), brv, pow_succ]
    ring

theorem brv_two_mul (k i : Nat) : brv (k + 1) (2 * i) = brv k i := by
  rw [brv, Nat.mul_mod_right, Nat.mul_div_cancel_left _ two_pos, zero_mul, zero_add]

theorem brv_two_mul_add_one (k i : Nat) : brv (k + 1) (2 * i + 1) = 2 ^ k + brv k i := by
  have hmod : (2 * i + 1) % 2 = 1 := by omega
  have hdiv : (2 * i + 1) / 2 = i := by omega
  rw [brv, hmod, hdiv, one_mul]

/-- Element `j` of the forward network is the value of the polynomial at ψ^(2·brv(j)+1) (R106). -/
theorem getD_nttCore {ψ : R} {k : Nat} (hf : f.length = 2 ^ k) (hψ : ψ ^ 2 ^ k = -1)
    (hroot : ∀ j, 1 ≤ j → j < 2 ^ k → root j = ψ ^ brv k j) {j : Nat} (hj : j < 2 ^ k) :
    (nttCore (ringOps R) root k f).getD j 0 = polyEval (ψ ^ (2 * brv k j + 1)) f := by
  induction k generalizing f ψ j with
  | zero =>
    obtain ⟨c, rfl⟩ := List.length_eq_one_iff.1 hf
    obtain rfl : j = 0 := by omega
    simp [nttCore, fwdStages, polyEval]
  | succ k ih =>
    obtain ⟨he, ho⟩ := length_evens_odds hf
    have htwo : 2 ^ (k + 1) = 2 ^ k + 2 ^ k := by rw [pow_succ]; omega
    have hpos : 0 < 2 ^ k := by positivity
    have hψ' : (ψ * ψ) ^ 2 ^ k = -1 := by rw [← hψ, pow_succ']; ring
    have hroot' : ∀ j, 1 ≤ j → j < 2 ^ k → root j = (ψ * ψ) ^ brv k j := fun j h1 h2 => by
      rw [hroot j h1 (by omega), brv_of_lt h2]; ring
    obtain ⟨i, hi, hij⟩ : ∃ i, i < 2 ^ k ∧ (j = 2 * i ∨ j = 2 * i + 1) := ⟨j / 2, by omega, by omega⟩
    have hentry : root (2 ^ k + i) = ψ ^ (2 * brv k i + 1) := by
      rw [hroot _ (by omega) (by omega), brv_two_pow_add hi]
    have hsquare : (ψ * ψ) ^ (2 * brv k i + 1) = ψ ^ (2 * brv k i + 1) * ψ ^ (2 * brv k i + 1) := by ring
    obtain ⟨heven, hodd⟩ := getD_nttCore_succ (K := ringOps R) (root := root) hf hi 0
    rw [ih he hψ' hroot' hi, ih ho hψ' hroot' hi, hentry, hsquare] at heven hodd
    rw [polyEval_eq_evens_odds]
    obtain rfl | rfl := hij
    · rw [heven, brv_two_mul, ringOps_add, ringOps_mul]
      ring
    · have hneg : ψ ^ (2 * (2 ^ k + brv k i) + 1) = -ψ ^ (2 * brv k i + 1) := by
        rw [← neg_one_mul, ← hψ, pow_succ' 2 k]; ring
      rw [hodd, brv_two_mul_add_one, hneg, neg_mul_neg, ringOps_sub, ringOps_mul]
      ring

/-- The forward network is the list of the values at the odd powers of ψ, in bit-reversed order. -/
theorem nttCore_eq_map_polyEval {ψ : R} {k : Nat} (hf : f.length = 2 ^ k) (hψ : ψ ^ 2 ^ k = -1)
    (hroot : ∀ j, 1 ≤ j → j < 2 ^ k → root j = ψ ^ brv k j) :
    nttCore (ringOps R) root k f = (List.range (2 ^ k)).map fun j => polyEval (ψ ^ (2 * brv k j + 1)) f := by
  refine List.ext_getElem (by simp [hf]) fun j h1 h2 => ?_
  have hj : j < 2 ^ k := by simpa using h2
  rw [← List.getD_eq_getElem _ 0 h1, getD_nttCore hf hψ hroot hj]
  simp

end

end Sys2Proof.Machine
end

section
/-! The two representations of elements as residues: K = Fp in ZMod q, K = Fp2 in ZMod q with a root u of u² = -1
(`00_scope.md` R15, R18). Canonical elements are equal when their residues are, so what holds of the networks over a
commutative ring holds of the block's. -/

namespace Sys2Proof.Machine

/-! ## Elements as residues -/

/-- The elements with `P` stand for different elements of a ring of characteristic `q`, under the operations of `K`. -/
structure ElemOps.Residues {α R : Type} [CommRing R] (K : ElemOps α) (q : Nat) (P : α → Prop) (φ : α → R) : Prop where
  hom : K.Hom (ringOps R) q P φ
  inj : ∀ {x y}, P x → P y → φ x = φ y → x = y
  char : (q : R) = 0

theorem fpOps_residues {F : Modulus} (hF : F.Ok) :
    (fpOps F).Residues F.q (fun v => v < F.q) (fun v => (v : ZMod F.q)) where
  hom := ⟨fpOps_closed hF, fadd_cast, fsub_cast, fmul_cast hF.mers, fmul_cast hF.mers⟩
  inj := eq_of_cast_eq
  char := ZMod.natCast_self _

/-- Fp2 as a ring: the pairs a0 + a1·u over ZMod q with u² = -1. -/
abbrev Fp2Ring (q : Nat) : Type := QuadraticAlgebra (ZMod q) (-1) 0

/-- The residue of a pair. -/
def Fp2.residue (q : Nat) (x : Fp2) : Fp2Ring q := ⟨x.1, x.2⟩

section
variable {F : Modulus} {x y : Fp2}

theorem Fp2.residue_inj (hx : Fp2.Canon F x) (hy : Fp2.Canon F y) (h : Fp2.residue F.q x = Fp2.residue F.q y) : x = y :=
  Prod.ext (eq_of_cast_eq hx.1 hy.1 (congrArg QuadraticAlgebra.re h))
    (eq_of_cast_eq hx.2 hy.2 (congrArg QuadraticAlgebra.im h))

theorem f2add_residue (hx : Fp2.Canon F x) (hy : Fp2.Canon F y) :
    Fp2.residue F.q (f2add F x y) = Fp2.residue F.q x + Fp2.residue F.q y :=
  QuadraticAlgebra.ext (fadd_cast hx.1 hy.1) (fadd_cast hx.2 hy.2)

theorem f2sub_residue (hx : Fp2.Canon F x) (hy : Fp2.Canon F y) :
    Fp2.residue F.q (f2sub F x y) = Fp2.residue F.q x - Fp2.residue F.q y :=
  QuadraticAlgebra.ext (fsub_cast hx.1 hy.1) (fsub_cast hx.2 hy.2)

theorem f2mul_residue (hF : F.Ok) (hx : Fp2.Canon F x) (hy : Fp2.Canon F y) :
    Fp2.residue F.q (f2mul F x y) = Fp2.residue F.q x * Fp2.residue F.q y := by
  refine QuadraticAlgebra.ext ?_ ?_
  · exact (f2mul_fst_cast hF hx hy).trans (by simp [Fp2.residue]; ring)
  · exact (f2mul_snd_cast hF hx hy).trans (by simp [Fp2.residue])

theorem fp2Scale_residue (hF : F.Ok) (hx : Fp2.Canon F x) {c : Nat} (hc : c < F.q) :
    Fp2.residue F.q (fmul F x.1 c, fmul F x.2 c) = Fp2.residue F.q x * c := by
  refine QuadraticAlgebra.ext ?_ ?_
  · exact (fmul_cast hF.mers hx.1 hc).trans (by simp [Fp2.residue])
  · exact (fmul_cast hF.mers hx.2 hc).trans (by simp [Fp2.residue])

theorem Fp2Ring.char (q : Nat) : (q : Fp2Ring q) = 0 := QuadraticAlgebra.ext (by simp) (by simp)

theorem fp2Ops_residues (hF : F.Ok) : (fp2Ops F).Residues F.q (Fp2.Canon F) (Fp2.residue F.q) where
  hom := ⟨fp2Ops_closed hF, f2add_residue, f2sub_residue, f2mul_residue hF, fun hx hc => fp2Scale_residue hF hx hc⟩
  inj := Fp2.residue_inj
  char := Fp2Ring.char _

end

/-! ## The networks over residues -/

/-- Lists whose elements a map tells apart are equal when their images are. -/
theorem eq_of_map_eq {α β : Type} {P : α → Prop} {φ : α → β} (hinj : ∀ {x y}, P x → P y → φ x = φ y → x = y)
    {f g : List α} (hf : ∀ x ∈ f, P x) (hg : ∀ x ∈ g, P x) (h : f.map φ = g.map φ) : f = g := by
  induction f generalizing g with
  | nil => exact (List.map_eq_nil_iff.1 h.symm).symm
  | cons x f ih =>
    cases g with
    | nil => cases h
    | cons y g =>
      rw [List.forall_mem_cons] at hf hg
      rw [List.map_cons, List.map_cons, List.cons.injEq] at h
      rw [hinj hf.1 hg.1 h.1, ih hf.2 hg.2 h.2]

section
variable {R : Type} [CommRing R] {q : Nat}

theorem cast_mod_of_char (hq : (q : R) = 0) (n : Nat) : ((n % q : Nat) : R) = n := by
  conv_rhs => rw [← Nat.div_add_mod n q, Nat.cast_add, Nat.cast_mul, hq, zero_mul, zero_add]

theorem cast_eq_of_mod_eq (hq : (q : R) = 0) {n m : Nat} (h : n % q = m) : (n : R) = m := by
  rw [← h, cast_mod_of_char hq]

/-- `INV2` is 1/2 in every ring of characteristic `q`. -/
theorem two_mul_inv2_of_char {F : Modulus} (hF : F.Ok) (hq : (F.q : R) = 0) : 2 * (F.inv2 : R) = 1 := by
  have htwo : 2 * F.inv2 = F.q + 1 := by
    have := hF.odd
    unfold Modulus.inv2
    omega
  have hcast := congrArg (Nat.cast (R := R)) htwo
  push_cast at hcast
  rw [hcast, hq, zero_add]

/-- A scalar that is 1/L in Fp is INV2^(log2 L), L = 2^k. -/
theorem ninv_eq_inv2_pow {F : Modulus} {ninv k : Nat} (hF : F.Ok) (hlt : ninv < F.q) (hn : ninv * 2 ^ k % F.q = 1) :
    ninv = F.inv2 ^ k % F.q := by
  have hcast : (ninv : ZMod F.q) * 2 ^ k = 1 := by exact_mod_cast cast_eq_of_mod_eq (ZMod.natCast_self F.q) hn
  have hpow : (2 : ZMod F.q) ^ k * F.inv2 ^ k = 1 := by
    rw [← mul_pow, two_mul_inv2_of_char hF (ZMod.natCast_self _), one_pow]
  refine eq_of_cast_eq hlt (Nat.mod_lt _ hF.prime.pos) ?_
  rw [ZMod.natCast_mod, Nat.cast_pow]
  calc (ninv : ZMod F.q) = ninv * (2 ^ k * F.inv2 ^ k) := by rw [hpow, mul_one]
    _ = F.inv2 ^ k := by rw [← mul_assoc, hcast, one_mul]

end

section
variable {α R : Type} [CommRing R] {F : Modulus} {K : ElemOps α} {P : α → Prop} {φ : α → R} {root iroot : Nat → α}
  {f : List α} {k : Nat}

theorem inttRec_closed_all {q c : Nat} (hK : K.Closed q P) (hc : c < q) (hl : f.length = 2 ^ k)
    (hroot : ∀ j, 1 ≤ j → j < 2 ^ k → P (root j)) (hf : ∀ x ∈ f, P x) : ∀ x ∈ inttRec c K root k f, P x := by
  cases k with
  | zero => exact hf
  | succ k => exact inttRec_closed hK hc (by omega) hl hroot hf

/-- R128 (b): where `NINV` is INV2^(log2 L), the two inverse engines compute one function. -/
theorem inttRec_eq_inttCore {q c ninv : Nat} (hK : K.Residues q P φ) (hc : c < q) (hninv : ninv = c ^ k % q)
    (hl : f.length = 2 ^ k) (hroot : ∀ j, 1 ≤ j → j < 2 ^ k → P (iroot j)) (hf : ∀ x ∈ f, P x) :
    inttRec c K iroot k f = inttCore ninv K iroot k f := by
  have hlt : ninv < q := hninv ▸ Nat.mod_lt _ (by omega)
  have hcast : (ninv : R) = (c : R) ^ k := by rw [hninv, cast_mod_of_char hK.char, Nat.cast_pow]
  have hstages := invStages_eq_inttRec (K := K) (root := iroot) c hl
  have hclosed := inttRec_closed_all hK.hom.closed.unscaled hc hl hroot hf
  have hscaled : ((inttRec c K.unscaled iroot k f).map fun x => K.scale x ninv).map φ =
      ((inttRec c K.unscaled iroot k f).map φ).map fun x => x * (ninv : R) := by
    rw [List.map_map, List.map_map]
    exact List.map_congr_left fun x hx => hK.hom.scale (hclosed x hx) hlt
  refine eq_of_map_eq hK.inj (inttRec_closed_all hK.hom.closed hc hl hroot hf)
    (inttCore_closed hK.hom.closed hlt hroot hf) ?_
  have hrec := inttRec_map_mul c c (1 : R) (iroot := φ ∘ iroot) (f := f.map φ) (by rw [List.length_map, hl])
  simp only [mul_one, one_mul, List.map_id'] at hrec
  rw [inttCore, hstages, hscaled, hK.hom.unscaled.map_inttRec hc hl hroot hf, hK.hom.map_inttRec hc hl hroot hf, hrec, hcast]

/-- R120 (1): with inverse table entries and `NINV` = 1/L the inverse network undoes the forward one. -/
theorem inttCore_nttCore {ninv : Nat} (hF : F.Ok) (hK : K.Residues F.q P φ) (hlt : ninv < F.q)
    (hninv : ninv * 2 ^ k % F.q = 1) (hl : f.length = 2 ^ k) (hroot : ∀ j, 1 ≤ j → j < 2 ^ k → P (root j))
    (hiroot : ∀ j, 1 ≤ j → j < 2 ^ k → P (iroot j)) (hinv : ∀ j, 1 ≤ j → j < 2 ^ k → φ (root j) * φ (iroot j) = 1)
    (hf : ∀ x ∈ f, P x) : inttCore ninv K iroot k (nttCore K root k f) = f := by
  have hmid : (nttCore K root k f).length = 2 ^ k := by rw [nttCore_length, hl]
  have hclosed := nttCore_closed hK.hom.closed hroot hf
  rw [← inttRec_eq_inttCore hK hF.inv2_lt (ninv_eq_inv2_pow hF hlt hninv) hmid hiroot hclosed]
  refine eq_of_map_eq hK.inj (inttRec_closed_all hK.hom.closed hF.inv2_lt hmid hiroot hclosed) hf ?_
  rw [hK.hom.map_inttRec hF.inv2_lt hmid hiroot hclosed, hK.hom.map_nttCore hl hroot hf]
  exact inttRec_nttCore (two_mul_inv2_of_char hF hK.char) (by rw [List.length_map, hl]) hinv

/-- R106 for the block's networks: the residues of the result are the values at the odd powers of ψ. -/
theorem map_nttCore_eq_polyEval {q : Nat} {ψ : R} (hK : K.Residues q P φ) (hl : f.length = 2 ^ k) (hψ : ψ ^ 2 ^ k = -1)
    (hroot : ∀ j, 1 ≤ j → j < 2 ^ k → P (root j)) (hpow : ∀ j, 1 ≤ j → j < 2 ^ k → φ (root j) = ψ ^ brv k j)
    (hf : ∀ x ∈ f, P x) :
    (nttCore K root k f).map φ = (List.range (2 ^ k)).map fun j => polyEval (ψ ^ (2 * brv k j + 1)) (f.map φ) := by
  rw [hK.hom.map_nttCore hl hroot hf]
  exact nttCore_eq_map_polyEval (by rw [List.length_map, hl]) hψ hpow

end

end Sys2Proof.Machine
end

section
/-! The negacyclic convolution and the lift boundary through evaluation (`44_ntt_iterative.md` R110, R111, R120). At an x with
xⁿ = -1 the convolution has the product of the values; lifting a polynomial of degree below 2L is the substitution of ω·y
for x where ω^L = u and y^L = -1; and `project` divides out the powers of ω that `lift` multiplied in. -/

namespace Sys2Proof.Machine

/-! ## The negacyclic convolution -/

section
variable {R : Type} [CommRing R] {x : R} {n q : Nat} {f g : List Nat}

theorem polyEval_map_range (x : R) (n : Nat) (h : Nat → R) :
    polyEval x ((List.range n).map h) = ∑ i ∈ Finset.range n, h i * x ^ i := by
  induction n generalizing h with
  | zero => rfl
  | succ n ih =>
    rw [List.range_succ_eq_map, List.map_cons, List.map_map, polyEval, ih, Finset.sum_range_succ', Finset.mul_sum, add_comm,
      pow_zero, mul_one]
    refine congrArg (· + h 0) (Finset.sum_congr rfl fun i _ => ?_)
    rw [Function.comp_apply, pow_succ]
    ring

/-- The coefficient of x^i of a list of numbers, in a ring. -/
theorem map_cast_eq_map_range (f : List Nat) :
    f.map (Nat.cast (R := R)) = (List.range f.length).map fun i => ((f.getD i 0 : Nat) : R) := by
  refine List.ext_getElem (by simp) fun i h1 h2 => ?_
  have hi : i < f.length := by simpa using h2
  simp [List.getElem?_eq_getElem hi]

theorem polyEval_cast (x : R) (f : List Nat) :
    polyEval x (f.map Nat.cast) = ∑ i ∈ Finset.range f.length, ((f.getD i 0 : Nat) : R) * x ^ i := by
  rw [map_cast_eq_map_range, polyEval_map_range]

theorem sum_map_range (n : Nat) (h : Nat → R) : ((List.range n).map h).sum = ∑ i ∈ Finset.range n, h i := rfl

/-- `polyValue` in a ring of characteristic `q`. -/
theorem polyValue_cast (hq : (q : R) = 0) (c : List Nat) (y : Nat) :
    (polyValue q c y : R) = polyEval (y : R) (c.map Nat.cast) := by
  rw [polyValue, cast_mod_of_char hq, Nat.cast_list_sum, List.map_map, sum_map_range, polyEval_cast]
  exact Finset.sum_congr rfl fun i _ => by simp

/-- One factor x^j shifts the coefficients by `j` places, those beyond the end coming back negated, where xⁿ = -1. -/
theorem sum_shift (hx : x ^ n = -1) {j : Nat} (hj : j ≤ n) (c : Nat → R) :
    ∑ i ∈ Finset.range n, (if j ≤ i then c (i - j) else -c (n + i - j)) * x ^ i =
      x ^ j * ∑ i ∈ Finset.range n, c i * x ^ i := by
  obtain ⟨m, rfl⟩ := Nat.exists_eq_add_of_le hj
  have hlow : ∑ i ∈ Finset.range j, (if j ≤ i then c (i - j) else -c (j + m + i - j)) * x ^ i =
      x ^ j * ∑ i ∈ Finset.range j, c (m + i) * x ^ (m + i) := by
    rw [Finset.mul_sum]
    refine Finset.sum_congr rfl fun i hi => ?_
    have hlt := Finset.mem_range.1 hi
    have hindex : j + m + i - j = m + i := by omega
    rw [if_neg (by omega), hindex]
    linear_combination -(c (m + i) * x ^ i) * hx
  have hhigh : ∑ i ∈ Finset.range m, (if j ≤ j + i then c (j + i - j) else -c (j + m + (j + i) - j)) * x ^ (j + i) =
      x ^ j * ∑ i ∈ Finset.range m, c i * x ^ i := by
    rw [Finset.mul_sum]
    refine Finset.sum_congr rfl fun i _ => ?_
    rw [if_pos (by omega), Nat.add_sub_cancel_left]
    ring
  rw [Finset.sum_range_add, hlow, hhigh, add_comm j m, Finset.sum_range_add]
  ring

/-- One term of the double sum; adding q² keeps the difference from falling below 0. -/
theorem negacyclic_term_cast (hq : (q : R) = 0) {a b : Nat} (ha : a ≤ q) (hb : b ≤ q) :
    ((q * q - a * b : Nat) : R) = -(a * b) := by
  rw [Nat.cast_sub (Nat.mul_le_mul ha hb), Nat.cast_mul, hq, mul_zero, zero_sub, Nat.cast_mul]

theorem negacyclic_map_cast (hq : (q : R) = 0) (hf : ∀ v ∈ f, v < q) (hg : ∀ v ∈ g, v < q) :
    (negacyclic q n f g).map (Nat.cast (R := R)) = (List.range n).map fun i => ∑ j ∈ Finset.range n,
      ((f.getD j 0 : Nat) : R) * (if j ≤ i then ((g.getD (i - j) 0 : Nat) : R) else -((g.getD (n + i - j) 0 : Nat) : R)) := by
  have hle {l : List Nat} (hl : ∀ v ∈ l, v < q) (i : Nat) : l.getD i 0 ≤ q :=
    forall_mem_getD (P := fun v => v ≤ q) (Nat.zero_le q) (fun v hv => (hl v hv).le) i
  rw [negacyclic, List.map_map]
  refine List.map_congr_left fun i _ => ?_
  rw [Function.comp_apply, cast_mod_of_char hq, Nat.cast_list_sum, List.map_map, sum_map_range]
  refine Finset.sum_congr rfl fun j _ => ?_
  rw [Function.comp_apply]
  split
  case isTrue => rw [Nat.cast_mul]
  case isFalse => rw [negacyclic_term_cast hq (hle hf _) (hle hg _), mul_neg]

/-- Where xⁿ = -1, the value of the negacyclic convolution is the product of the values. -/
theorem polyEval_negacyclic (hq : (q : R) = 0) (hx : x ^ n = -1) (hfl : f.length = n) (hgl : g.length = n)
    (hf : ∀ v ∈ f, v < q) (hg : ∀ v ∈ g, v < q) :
    polyEval x ((negacyclic q n f g).map Nat.cast) = polyEval x (f.map Nat.cast) * polyEval x (g.map Nat.cast) := by
  rw [negacyclic_map_cast hq hf hg, polyEval_map_range, polyEval_cast, polyEval_cast, hfl, hgl, Finset.sum_mul]
  simp only [Finset.sum_mul]
  rw [Finset.sum_comm]
  refine Finset.sum_congr rfl fun j hj => ?_
  have hrow := sum_shift hx (Finset.mem_range.1 hj).le fun i => ((g.getD i 0 : Nat) : R)
  rw [mul_assoc, ← hrow, Finset.mul_sum]
  exact Finset.sum_congr rfl fun i _ => mul_assoc _ _ _

theorem negacyclic_lt (hq : 0 < q) : ∀ v ∈ negacyclic q n f g, v < q :=
  List.forall_mem_map.2 fun _ _ => Nat.mod_lt _ hq

theorem negacyclic_length : (negacyclic q n f g).length = n := by simp [negacyclic]

end

/-! ## Lift -/

section
variable {F : Modulus} {ω : Fp2} {L : Nat} {c : List Nat}

theorem f2pow_canon (hF : F.Ok) (hω : Fp2.Canon F ω) (n : Nat) : Fp2.Canon F (f2pow F ω n) := by
  induction n with
  | zero => exact one_canon hF
  | succ n ih => exact f2mul_canon hF.mers ih hω

theorem one_residue (q : Nat) : Fp2.residue q (1, 0) = 1 :=
  QuadraticAlgebra.ext Nat.cast_one Nat.cast_zero

theorem f2pow_residue (hF : F.Ok) (hω : Fp2.Canon F ω) (n : Nat) :
    Fp2.residue F.q (f2pow F ω n) = Fp2.residue F.q ω ^ n := by
  induction n with
  | zero => exact (one_residue F.q).trans (pow_zero _).symm
  | succ n ih => rw [f2pow, f2mul_residue hF (f2pow_canon hF hω n) hω, ih, pow_succ]

/-- What `lift` multiplies by a power of ω: the pair (a, -b) is a - b·u. -/
theorem coeffPair_residue {a b : Nat} (hb : b < F.q) :
    Fp2.residue F.q (a, fneg F b) = (a : Fp2Ring F.q) - b * Fp2.residue F.q (0, 1) := by
  refine QuadraticAlgebra.ext ?_ ?_
  · simp [Fp2.residue]
  · simp [Fp2.residue, fneg_cast hb]

theorem coeff_lt (hF : F.Ok) (hc : ∀ v ∈ c, v < F.q) (i : Nat) : c.getD i 0 < F.q :=
  forall_mem_getD (P := fun v => v < F.q) (d := 0) hF.prime.pos hc i

theorem coeffPair_canon (hF : F.Ok) (hc : ∀ v ∈ c, v < F.q) (i j : Nat) : Fp2.Canon F (c.getD i 0, fneg F (c.getD j 0)) :=
  ⟨coeff_lt hF hc i, fneg_lt (coeff_lt hF hc j)⟩

theorem liftLoop_map_residue (hF : F.Ok) (hω : Fp2.Canon F ω) (hc : ∀ v ∈ c, v < F.q) (r i : Nat) {p : Fp2}
    (hp : Fp2.Canon F p) (hpow : Fp2.residue F.q p = Fp2.residue F.q ω ^ i) :
    (liftLoop F ω L c r i p).map (Fp2.residue F.q) = (List.range' i r).map fun j =>
      (((c.getD j 0 : Nat) : Fp2Ring F.q) - (c.getD (j + L) 0 : Nat) * Fp2.residue F.q (0, 1)) * Fp2.residue F.q ω ^ j := by
  induction r generalizing i p with
  | zero => rfl
  | succ r ih =>
    have hrest := ih (i + 1) (f2mul_canon hF.mers hp hω) (by rw [f2mul_residue hF hp hω, hpow, pow_succ])
    rw [liftLoop, List.map_cons, List.range'_succ, List.map_cons, hrest, f2mul_residue hF (coeffPair_canon hF hc _ _) hp,
      hpow, coeffPair_residue (coeff_lt hF hc _)]

/-- With ω^L = u and y^L = -1 the lifted polynomial at y is the polynomial at ω·y. -/
theorem polyEval_liftSeq (hF : F.Ok) (hω : Fp2.Canon F ω) (hc : ∀ v ∈ c, v < F.q) (hl : c.length = 2 * L)
    (hu : Fp2.residue F.q ω ^ L = Fp2.residue F.q (0, 1)) {y : Fp2Ring F.q} (hy : y ^ L = -1) :
    polyEval y ((liftSeq F ω L c).map (Fp2.residue F.q)) = polyEval (Fp2.residue F.q ω * y) (c.map Nat.cast) := by
  have hpow : (Fp2.residue F.q ω * y) ^ L = -Fp2.residue F.q (0, 1) := by rw [mul_pow, hu, hy, mul_neg_one]
  rw [liftSeq, liftLoop_map_residue hF hω hc L 0 (one_canon hF) (by rw [one_residue, pow_zero]), ← List.range_eq_range',
    polyEval_map_range, polyEval_cast, hl, two_mul, Finset.sum_range_add, ← Finset.sum_add_distrib]
  refine Finset.sum_congr rfl fun i _ => ?_
  rw [pow_add, hpow, mul_pow, add_comm L i]
  ring

/-! ## Project -/

/-- While `p` and `p'` are inverse to each other, being the powers of ω and of its inverse, the two loops cancel. -/
theorem projectLoop_liftLoop (hF : F.Ok) {wi : Fp2} (hω : Fp2.Canon F ω) (hwi : Fp2.Canon F wi)
    (hinv : f2mul F wi ω = (1, 0)) (hc : ∀ v ∈ c, v < F.q) (r i : Nat) {p p' : Fp2} (hp : Fp2.Canon F p)
    (hp' : Fp2.Canon F p') (hpp : f2mul F p p' = (1, 0)) :
    projectLoop F wi p' (liftLoop F ω L c r i p) =
      (List.range' i r).map fun j => (c.getD j 0, fneg F (c.getD (j + L) 0)) := by
  induction r generalizing i p p' with
  | zero => rfl
  | succ r ih =>
    have hone := one_canon hF
    have hcoeff := coeffPair_canon hF hc i (i + L)
    have hpω := f2mul_canon hF.mers hp hω
    have hpwi := f2mul_canon hF.mers hp' hwi
    have hpp_res := congrArg (Fp2.residue F.q) hpp
    have hinv_res := congrArg (Fp2.residue F.q) hinv
    rw [f2mul_residue hF hp hp', one_residue] at hpp_res
    rw [f2mul_residue hF hwi hω, one_residue] at hinv_res
    have hhead : f2mul F (f2mul F (c.getD i 0, fneg F (c.getD (i + L) 0)) p) p' =
        (c.getD i 0, fneg F (c.getD (i + L) 0)) := by
      refine Fp2.residue_inj (f2mul_canon hF.mers (f2mul_canon hF.mers hcoeff hp) hp') hcoeff ?_
      rw [f2mul_residue hF (f2mul_canon hF.mers hcoeff hp) hp', f2mul_residue hF hcoeff hp, mul_assoc, hpp_res, mul_one]
    have hnext : f2mul F (f2mul F p ω) (f2mul F p' wi) = (1, 0) := by
      refine Fp2.residue_inj (f2mul_canon hF.mers hpω hpwi) hone ?_
      rw [f2mul_residue hF hpω hpwi, f2mul_residue hF hp hω, f2mul_residue hF hp' hwi, one_residue]
      linear_combination Fp2.residue F.q ω * Fp2.residue F.q wi * hpp_res + hinv_res
    rw [liftLoop, projectLoop, hhead, ih (i + 1) hpω hpwi hnext, List.range'_succ, List.map_cons]

theorem fneg_fneg {a : Nat} (ha : a < F.q) : fneg F (fneg F a) = a :=
  eq_of_cast_eq (fneg_lt (fneg_lt ha)) ha (by rw [fneg_cast (fneg_lt ha), fneg_cast ha, neg_neg])

/-- A list of 2L numbers is its two halves. -/
theorem map_range_halves (hl : c.length = 2 * L) :
    (List.range L).map (fun i => c.getD i 0) ++ (List.range L).map (fun i => c.getD (i + L) 0) = c := by
  refine List.ext_getElem (by simp [hl, two_mul]) fun i h1 h2 => ?_
  by_cases hi : i < L
  · simp [List.getElem_append_left, hi, List.getElem?_eq_getElem h2]
  · have hback : i - L + L = i := by omega
    simp [List.getElem_append_right, Nat.le_of_not_lt hi, hback, List.getElem?_eq_getElem h2]

/-- R111: for an invertible ω, `project` undoes `lift`. -/
theorem projectSeq_liftSeq (hF : F.Ok) (hq : F.q % 4 = 3) (hω : Fp2.Canon F ω) (hne : ω ≠ (0, 0)) (hl : c.length = 2 * L)
    (hc : ∀ v ∈ c, v < F.q) : projectSeq F ω (liftSeq F ω L c) = .ok (c, (c.drop L).map (fneg F)) := by
  obtain ⟨wi, hok, hinv⟩ := f2inv_spec hF hq hω hne
  have hone := one_canon hF
  have hmul_one : f2mul F (1, 0) (1, 0) = (1, 0) :=
    Fp2.residue_inj (f2mul_canon hF.mers hone hone) hone (by rw [f2mul_residue hF hone hone, one_residue, mul_one])
  have hloop := projectLoop_liftLoop hF hω (f2inv_canon hF hω hok) hinv hc (L := L) L 0 hone hone hmul_one
  have hhalves := map_range_halves hl
  have hupper : c.drop L = (List.range L).map fun i => c.getD (i + L) 0 :=
    (congrArg (List.drop L) hhalves.symm).trans (List.drop_left' (by simp))
  have hneg : (List.range L).map (fun i => fneg F (fneg F (c.getD (i + L) 0))) =
      (List.range L).map fun i => c.getD (i + L) 0 := List.map_congr_left fun i _ => fneg_fneg (coeff_lt hF hc _)
  rw [← List.range_eq_range'] at hloop
  rw [projectSeq, hok]
  change Except.ok (_, _) = _
  rw [liftSeq, hloop]
  simp only [List.map_map, Function.comp_def, hneg, hhalves, hupper]

end

/-- Settles O54: ω is invertible since -1 is no square modulo q, and its powers cancel one by one. -/
theorem projectUndoesLift : Obligations.ProjectUndoesLift := fun _ _ _ _ hF hq hω0 hω1 hne hl hc =>
  ⟨_, projectSeq_liftSeq hF hq ⟨hω0, hω1⟩ hne hl hc, rfl⟩

end Sys2Proof.Machine
end

section
/-! The multiplicative homomorphism (`44_ntt_iterative.md` R120 (4)), direct and lifted. -/

namespace Sys2Proof.Machine

/-! ## Products of transforms -/

section
variable {α R : Type} [CommRing R] {F : Modulus} {K : ElemOps α} {P : α → Prop} {φ : α → R} {root : Nat → α}
  {f g h : List α} {k : Nat}

theorem zipWith_closed {m : α → α → α} (hm : ∀ {x y}, P x → P y → P (m x y)) (hf : ∀ x ∈ f, P x)
    (hg : ∀ x ∈ g, P x) : ∀ x ∈ List.zipWith m f g, P x := by
  induction f generalizing g with
  | nil => simp
  | cons x f ih =>
    cases g with
    | nil => simp
    | cons y g =>
      rw [List.forall_mem_cons] at hf hg
      rw [List.zipWith_cons_cons, List.forall_mem_cons]
      exact ⟨hm hf.1 hg.1, ih hf.2 hg.2⟩

theorem map_zipWith_mul {m : α → α → α} (hm : ∀ {x y}, P x → P y → φ (m x y) = φ x * φ y) (hf : ∀ x ∈ f, P x)
    (hg : ∀ x ∈ g, P x) : (List.zipWith m f g).map φ = List.zipWith (fun x y => x * y) (f.map φ) (g.map φ) := by
  induction f generalizing g with
  | nil => simp
  | cons x f ih =>
    cases g with
    | nil => simp
    | cons y g =>
      rw [List.forall_mem_cons] at hf hg
      simp only [List.zipWith_cons_cons, List.map_cons, hm hf.1 hg.1, ih hf.2 hg.2]

/-- Where `h` has the product of the values of `f` and `g` at every x with x^L = -1, the product of their transforms is its
transform. -/
theorem zipWith_mul_nttCore {ψ : R} {q : Nat} (hK : K.Residues q P φ) (hfl : f.length = 2 ^ k) (hgl : g.length = 2 ^ k)
    (hhl : h.length = 2 ^ k) (hf : ∀ x ∈ f, P x) (hg : ∀ x ∈ g, P x) (hh : ∀ x ∈ h, P x) (hψ : ψ ^ 2 ^ k = -1)
    (hroot : ∀ j, 1 ≤ j → j < 2 ^ k → P (root j)) (hpow : ∀ j, 1 ≤ j → j < 2 ^ k → φ (root j) = ψ ^ brv k j)
    (hval : ∀ x : R, x ^ 2 ^ k = -1 → polyEval x (f.map φ) * polyEval x (g.map φ) = polyEval x (h.map φ)) :
    List.zipWith K.mul (nttCore K root k f) (nttCore K root k g) = nttCore K root k h := by
  have hF := nttCore_closed hK.hom.closed hroot hf
  have hG := nttCore_closed hK.hom.closed hroot hg
  refine eq_of_map_eq hK.inj (zipWith_closed hK.hom.closed.mul hF hG) (nttCore_closed hK.hom.closed hroot hh) ?_
  rw [map_zipWith_mul hK.hom.mul hF hG, map_nttCore_eq_polyEval hK hfl hψ hroot hpow hf,
    map_nttCore_eq_polyEval hK hgl hψ hroot hpow hg, map_nttCore_eq_polyEval hK hhl hψ hroot hpow hh, List.zipWith_map,
    List.zipWith_self]
  refine List.map_congr_left fun j _ => hval _ ?_
  rw [← pow_mul, mul_comm, pow_mul, hψ, Odd.neg_one_pow ⟨brv k j, rfl⟩]

end

/-! ## Direct -/

section
variable {F : Modulus} {f g : List Nat} {k ninv : Nat}

/-- The host's products with FMUL are those of K = Fp. -/
theorem pointwiseMul_eq (hF : F.Ok) (hf : ∀ v ∈ f, v < F.q) (hg : ∀ v ∈ g, v < F.q) :
    pointwiseMul F.q f g = List.zipWith (fpOps F).mul f g := by
  induction f generalizing g with
  | nil => rfl
  | cons x f ih =>
    cases g with
    | nil => rfl
    | cons y g =>
      rw [List.forall_mem_cons] at hf hg
      have hmul : (fpOps F).mul x y = x * y % F.q := fmul_eq hF.mers hf.1 hg.1
      rw [List.zipWith_cons_cons, hmul, ← ih hf.2 hg.2]
      rfl

theorem pow_eq_neg_one_of_mod {ψ n : Nat} (hF : F.Ok) (h : ψ ^ n % F.q = F.q - 1) : (ψ : ZMod F.q) ^ n = -1 := by
  have hcast := cast_eq_of_mod_eq (ZMod.natCast_self F.q) h
  rwa [Nat.cast_pow, Nat.cast_sub hF.one_lt.le, ZMod.natCast_self, zero_sub, Nat.cast_one] at hcast

section
variable {ψ : Nat} {root iroot : Nat → Nat} (ht : DirectTable F k ψ ninv root iroot)
include ht

theorem DirectTable.root_lt (hF : F.Ok) : ∀ j, 1 ≤ j → j < 2 ^ k → root j < F.q := fun j h1 h2 => by
  obtain ⟨hroot, -, -⟩ := ht.entries j h1 h2
  exact hroot ▸ Nat.mod_lt _ hF.prime.pos

theorem DirectTable.iroot_lt : ∀ j, 1 ≤ j → j < 2 ^ k → iroot j < F.q := fun j h1 h2 => by
  obtain ⟨-, hiroot, -⟩ := ht.entries j h1 h2
  exact hiroot

theorem DirectTable.root_cast : ∀ j, 1 ≤ j → j < 2 ^ k → (root j : ZMod F.q) = (ψ : ZMod F.q) ^ brv k j := fun j h1 h2 => by
  obtain ⟨hroot, -, -⟩ := ht.entries j h1 h2
  rw [hroot, ZMod.natCast_mod, Nat.cast_pow]

theorem DirectTable.root_mul_iroot_cast : ∀ j, 1 ≤ j → j < 2 ^ k → (root j : ZMod F.q) * iroot j = 1 := fun j h1 h2 => by
  obtain ⟨-, -, hmul⟩ := ht.entries j h1 h2
  exact_mod_cast cast_eq_of_mod_eq (ZMod.natCast_self F.q) hmul

end

theorem directHomomorphism_of_table {ψ : Nat} {root iroot : Nat → Nat} (hF : F.Ok) (hfl : f.length = 2 ^ k)
    (hgl : g.length = 2 ^ k) (hf : ∀ v ∈ f, v < F.q) (hg : ∀ v ∈ g, v < F.q) (ht : DirectTable F k ψ ninv root iroot) :
    DirectHomomorphism F k ninv root iroot f g := by
  have hK := fpOps_residues hF
  have hroot := ht.root_lt hF
  have hlt := negacyclic_lt (n := 2 ^ k) (f := f) (g := g) hF.prime.pos
  have hproduct : pointwiseMul F.q (nttCore (fpOps F) root k f) (nttCore (fpOps F) root k g) =
      nttCore (fpOps F) root k (negacyclic F.q (2 ^ k) f g) := by
    rw [pointwiseMul_eq hF (nttCore_closed hK.hom.closed hroot hf) (nttCore_closed hK.hom.closed hroot hg)]
    exact zipWith_mul_nttCore hK hfl hgl negacyclic_length hf hg hlt (pow_eq_neg_one_of_mod hF ht.psi) hroot ht.root_cast
      fun x hx => (polyEval_negacyclic hK.char hx hfl hgl hf hg).symm
  rw [DirectHomomorphism, hproduct]
  exact inttCore_nttCore hF hK ht.ninv_lt ht.ninv_mul negacyclic_length hroot ht.iroot_lt ht.root_mul_iroot_cast hlt

/-! ## Lifted -/

theorem Fp2.InversePair.residue {x y : Fp2} (hF : F.Ok) (h : Fp2.InversePair F x y) :
    Fp2.residue F.q x * Fp2.residue F.q y = 1 := by
  obtain ⟨hx, hy, hfst, hsnd⟩ := h
  have hmul : f2mul F x y = (1, 0) := by rw [f2mul_eq hF hx hy, hfst, hsnd]
  rw [← f2mul_residue hF hx hy, hmul, one_residue]

/-- The unit u: u² = -1. -/
theorem residue_unit_mul_self (q : Nat) : Fp2.residue q (0, 1) * Fp2.residue q (0, 1) = -1 :=
  QuadraticAlgebra.ext (by simp [Fp2.residue, QuadraticAlgebra.re_one]) (by simp [Fp2.residue, QuadraticAlgebra.im_one])

theorem neg_one_residue (hF : F.Ok) : Fp2.residue F.q (F.q - 1, 0) = -1 :=
  by
  refine QuadraticAlgebra.ext ?_ ?_
  · simp [Fp2.residue, Nat.cast_sub hF.one_lt.le, QuadraticAlgebra.re_one]
  · simp [Fp2.residue, QuadraticAlgebra.im_one]

/-- A root of u is not 0. -/
theorem ne_zero_of_residue_pow_eq_unit {ω : Fp2} {n : Nat} (hF : F.Ok) (hn : n ≠ 0)
    (hu : Fp2.residue F.q ω ^ n = Fp2.residue F.q (0, 1)) : ω ≠ (0, 0) := fun h0 => by
  have : Fact F.q.Prime := ⟨hF.prime⟩
  have hzero : Fp2.residue F.q (0, 0) = 0 := QuadraticAlgebra.ext Nat.cast_zero Nat.cast_zero
  rw [h0, hzero, zero_pow hn] at hu
  exact zero_ne_one ((congrArg QuadraticAlgebra.im hu).trans Nat.cast_one)

section
variable {ψ ω : Fp2} {root iroot : Nat → Fp2} (ht : LiftedTable F k ψ ω ninv root iroot)
include ht

theorem LiftedTable.inversePair : ∀ j, 1 ≤ j → j < 2 ^ k → Fp2.InversePair F (root j) (iroot j) := fun j h1 h2 => by
  obtain ⟨-, hpair⟩ := ht.entries j h1 h2
  exact hpair

theorem LiftedTable.root_canon : ∀ j, 1 ≤ j → j < 2 ^ k → Fp2.Canon F (root j) := fun j h1 h2 => by
  obtain ⟨hroot, -, -, -⟩ := ht.inversePair j h1 h2
  exact hroot

theorem LiftedTable.iroot_canon : ∀ j, 1 ≤ j → j < 2 ^ k → Fp2.Canon F (iroot j) := fun j h1 h2 => by
  obtain ⟨-, hiroot, -, -⟩ := ht.inversePair j h1 h2
  exact hiroot

theorem LiftedTable.root_residue (hF : F.Ok) :
    ∀ j, 1 ≤ j → j < 2 ^ k → Fp2.residue F.q (root j) = Fp2.residue F.q ψ ^ brv k j := fun j h1 h2 => by
  obtain ⟨hroot, -⟩ := ht.entries j h1 h2
  rw [hroot, f2pow_residue hF ht.psi_lt]

theorem LiftedTable.psi_residue_pow (hF : F.Ok) : Fp2.residue F.q ψ ^ 2 ^ k = -1 := by
  rw [← f2pow_residue hF ht.psi_lt, ht.psi, neg_one_residue hF]

theorem LiftedTable.omega_residue_pow (hF : F.Ok) : Fp2.residue F.q ω ^ 2 ^ k = Fp2.residue F.q (0, 1) := by
  rw [← f2pow_residue hF ht.omega_lt, ht.omega]

end

theorem liftedHomomorphism_of_table {ψ ω : Fp2} {root iroot : Nat → Fp2} (hF : F.Ok) (hq : F.q % 4 = 3)
    (hfl : f.length = 2 * 2 ^ k) (hgl : g.length = 2 * 2 ^ k) (hf : ∀ v ∈ f, v < F.q) (hg : ∀ v ∈ g, v < F.q)
    (ht : LiftedTable F k ψ ω ninv root iroot) : LiftedHomomorphism F k ω ninv root iroot f g := by
  have hK := fp2Ops_residues hF
  have hω : Fp2.Canon F ω := ht.omega_lt
  have hu := ht.omega_residue_pow hF
  have hlt := negacyclic_lt (n := 2 * 2 ^ k) (f := f) (g := g) hF.prime.pos
  have hval : ∀ y : Fp2Ring F.q, y ^ 2 ^ k = -1 →
      polyEval y ((liftSeq F ω (2 ^ k) f).map (Fp2.residue F.q)) *
          polyEval y ((liftSeq F ω (2 ^ k) g).map (Fp2.residue F.q)) =
        polyEval y ((liftSeq F ω (2 ^ k) (negacyclic F.q (2 * 2 ^ k) f g)).map (Fp2.residue F.q)) := fun y hy => by
    have hx : (Fp2.residue F.q ω * y) ^ (2 * 2 ^ k) = -1 := by
      rw [mul_pow, two_mul, pow_add, pow_add, hu, hy, residue_unit_mul_self]
      ring
    rw [polyEval_liftSeq hF hω hf hfl hu hy, polyEval_liftSeq hF hω hg hgl hu hy,
      polyEval_liftSeq hF hω hlt negacyclic_length hu hy, polyEval_negacyclic hK.char hx hfl hgl hf hg]
  have hproduct := zipWith_mul_nttCore hK (liftSeq_length F ω _ f) (liftSeq_length F ω _ g) (liftSeq_length F ω _ _)
    (liftSeq_canon hF hω hf) (liftSeq_canon hF hω hg) (liftSeq_canon hF hω hlt)
    (ht.psi_residue_pow hF) ht.root_canon (ht.root_residue hF) hval
  have hback := inttCore_nttCore hF hK ht.ninv_lt ht.ninv_mul (liftSeq_length F ω (2 ^ k) _) ht.root_canon
    ht.iroot_canon (fun j h1 h2 => (ht.inversePair j h1 h2).residue hF) (liftSeq_canon hF hω hlt)
  have hprojected := projectSeq_liftSeq hF hq hω (ne_zero_of_residue_pow_eq_unit hF (by positivity) hu)
    (negacyclic_length (f := f) (g := g)) hlt
  have hinverse := (congrArg (inttCore ninv (fp2Ops F) iroot k) hproduct).trans hback
  exact ⟨_, (congrArg (projectSeq F ω) hinverse).trans hprojected⟩

end

/-- Settles O53: the convolution, lifted or not, has at every point of evaluation the product of the values, so its transform
is the product of the transforms, and the inverse transform brings it back. -/
theorem pointwiseProductIsNegacyclicConvolution : Obligations.PointwiseProductIsNegacyclicConvolution :=
  ⟨fun _ _ _ _ _ _ _ _ hF _ hfl hgl hf hg ht => directHomomorphism_of_table hF hfl hgl hf hg ht,
    fun _ _ _ _ _ _ _ _ _ hF hq _ hfl hgl hf hg ht => liftedHomomorphism_of_table hF hq hfl hgl hf hg ht⟩

end Sys2Proof.Machine
end

section
/-! Who writes the tables, `NINV` and the lift root (`43_root_table.md` R100): no command, and the host between commands. -/

namespace Sys2Proof.Machine

/-! ## Commands -/

/-- Every word of the memories that are no buffer reads in `u` as in `s`. -/
def State.KeepsTables (s u : State) : Prop :=
  ∀ (M : MemId) (j : Nat), M ≠ .buf0 → M ≠ .buf1 → j < Config.nmax → u.memWord M j = s.memWord M j

section
variable {s t u : State} {k : Nat} {net : {α : Type} → ElemOps α → (Nat → α) → Nat → List α → List α}

theorem State.KeepsTables.trans (h : s.KeepsTables t) (h' : t.KeepsTables u) : s.KeepsTables u := fun M j h0 h1 hj =>
  (h' M j h0 h1 hj).trans (h M j h0 h1 hj)

theorem State.keepsTables_of_mem (hm : t.mem = s.mem) (hr : t.resets = s.resets) : s.KeepsTables t := fun _ _ _ _ _ =>
  State.wordAt_congr hr fun _ _ => by rw [hm]

theorem State.keepsTables_setMemSeq (s : State) {B : MemId} (hB : B = .buf0 ∨ B = .buf1) {vs : List Nat}
    (hn : vs.length ≤ Config.nmax) : s.KeepsTables (s.setMemSeq B vs) := fun M j h0 h1 hj => by
  have hM : M ≠ B := by
    obtain rfl | rfl := hB
    exacts [h0, h1]
  exact s.memWord_setMemSeq_other hn hj (.inl hM)

theorem State.keepsTables_buffers (s : State) {vs ws : List Nat} (hv : vs.length ≤ Config.nmax)
    (hw : ws.length ≤ Config.nmax) : s.KeepsTables ((s.setMemSeq .buf0 vs).setMemSeq .buf1 ws) :=
  (s.keepsTables_setMemSeq (.inl rfl) hv).trans (State.keepsTables_setMemSeq _ (.inr rfl) hw)

theorem State.forwardResult_keepsTables (hs : s.Inv) (hk : s.LengthOk k) (hnet : KeepsLength net) :
    s.KeepsTables (s.forwardResult k net) := by
  obtain ⟨hle, hmax⟩ := hk.le_nmax hs
  obtain ⟨hone, -⟩ := hk.one_le_logL
  unfold State.forwardResult
  split
  case isTrue =>
    have hlen := hnet (fp2Ops s.modulus) s.rootFp2 hone
      (liftSeq_length s.modulus s.liftRoot (2 ^ s.logL k) (s.bufFp (2 ^ k)))
    exact s.keepsTables_buffers (by rw [List.length_map]; omega) (by rw [List.length_map]; omega)
  case isFalse =>
    have hlen := hnet (fpOps s.modulus) s.rootFp (hone.trans hk.one_le_logL.2) (s.bufFp_length (2 ^ k))
    exact s.keepsTables_setMemSeq (.inl rfl) (by omega)

theorem State.inverseResult_keepsTables (hs : s.Inv) (hk : s.LengthOk k) (hnet : KeepsLength net)
    (h : s.inverseResult k net = .ok u) : s.KeepsTables u := by
  obtain ⟨hle, hmax⟩ := hk.le_nmax hs
  obtain ⟨hone, -⟩ := hk.one_le_logL
  unfold State.inverseResult at h
  split at h
  case isTrue hl =>
    obtain ⟨r, hr, hu⟩ := bind_eq_ok.1 h
    cases hu
    have hlen := hnet (fp2Ops s.modulus) s.irootFp2 hone (s.bufFp2_length (2 ^ s.logL k))
    have hdouble : 2 * 2 ^ s.logL k = 2 ^ k := by
      rw [State.logL_lifted hl] at hone ⊢
      rw [← pow_succ', Nat.sub_add_cancel (by omega)]
    obtain ⟨hr1, hr2⟩ := projectSeq_length hr
    exact s.keepsTables_buffers (by omega) (by omega)
  case isFalse =>
    cases h
    have hlen := hnet (fpOps s.modulus) s.irootFp (hone.trans hk.one_le_logL.2) (s.bufFp_length (2 ^ k))
    exact s.keepsTables_setMemSeq (.inl rfl) (by omega)

/-- Error entry writes no memory, and neither does the completion itself. -/
theorem State.keepsTables_of_finish {r : Except CmdError State} (hr : ∀ u, r = .ok u → s.KeepsTables u)
    (h : s.finish r = .next t) : s.KeepsTables t := by
  obtain ⟨u, hu, rfl⟩ | ⟨e, -, rfl⟩ := State.finish_cases h
  · exact (hr u hu).trans (State.keepsTables_of_mem rfl rfl)
  · exact State.keepsTables_of_mem rfl rfl

theorem State.forward_keepsTables (hs : s.Inv) (hnet : KeepsLength net) (h : s.finish (s.forward k net) = .next t) :
    s.KeepsTables t :=
  State.keepsTables_of_finish (fun u hu => by
    obtain ⟨-, hk, -, rfl⟩ := State.forward_ok.1 hu
    exact State.forwardResult_keepsTables hs hk hnet) h

theorem State.inverse_keepsTables {extra : List Word} (hs : s.Inv) (hnet : KeepsLength net)
    (h : s.finish (s.inverse k extra net) = .next t) : s.KeepsTables t :=
  State.keepsTables_of_finish (fun u hu => by
    obtain ⟨-, hk, -, hres⟩ := State.inverse_ok.1 hu
    exact State.inverseResult_keepsTables hs hk hnet hres) h

theorem State.lazyTransform_keepsTables {inputs : List Word} {lazyNet : List Nat → Except CmdError (List Nat)} (hs : s.Inv)
    (hlen : ∀ {a b}, lazyNet a = .ok b → b.length = a.length)
    (h : s.finish (s.lazyTransform k inputs lazyNet) = .next t) : s.KeepsTables t :=
  State.keepsTables_of_finish (fun u hu => by
    obtain ⟨-, -, hk, -, c, hc, rfl⟩ := State.lazyTransform_ok.1 hu
    have hsize := (hlen hc).trans (s.bufFp_length _)
    exact s.keepsTables_setMemSeq (.inl rfl) (hsize.trans_le (hk.le_nmax hs).2)) h

/-- No command writes a memory but the buffers: only transforms write memory, and their results fit the buffers. -/
theorem exec_keepsTables {i : Instr} (hs : s.Inv) (h : exec i s = .next t) : s.KeepsTables t := by
  obtain ⟨-, -, -, -, -, -, -, -, -, -, -, hresets, -, -, -, -, -, -, -, hmem⟩ := commandsWriteOnlyTheirRegisters i s t h
  cases i with
  | ntti k => exact State.forward_keepsTables hs nttCore_keepsLength h
  | nttr k => exact State.forward_keepsTables hs nttRec_keepsLength h
  | intti k => exact State.inverse_keepsTables hs (inttCore_keepsLength _) h
  | inttr k => exact State.inverse_keepsTables hs (inttRec_keepsLength _) h
  | nttil k => exact State.lazyTransform_keepsTables hs lazyFwd_length h
  | inttil k => exact State.lazyTransform_keepsTables hs lazyInv_length h
  | nop | setmod | clrerr | fadd | fsub | fmul | finv | fsqrt | f2add | f2sub | f2mul | f2inv | f2sqrt | f2neg =>
    exact State.keepsTables_of_mem (hmem rfl) hresets

/-! ## The host -/

/-- A host write to a location that is neither read-only nor written while BUSY. -/
theorem State.hostWrite_between_commands {addr : Addr} {l : Loc} (s : State) (ha : misaligned addr = false)
    (hl : locate addr = some l) (hr : l.readOnly = false) (hw : l.writesWhileBusy = false) (d : Word) :
    s.hostWrite addr d = if s.busy = true then none else some (s.writeLoc l d) := by
  rw [State.hostWrite_located ha hl, hr, hw]
  simp

end

/-- Settles O57: no command's frame holds a table, and a host write waits until no command is in flight. -/
theorem noCommandWritesATable : Obligations.NoCommandWritesATable := by
  refine ⟨fun i s t hs h => ?_, fun s M j d _ _ hj => ?_, fun s d => ⟨?_, ?_, ?_⟩⟩
  · obtain ⟨-, -, -, hninv, hw0, hw1, -⟩ := commandsWriteOnlyTheirRegisters i s t h
    exact ⟨hninv, hw0, hw1, exec_keepsTables hs h⟩
  · exact s.hostWrite_between_commands (M.wordAddr_aligned hj) (locate_wordAddr M hj) rfl rfl d
  · exact s.hostWrite_between_commands (l := .reg .ninv) rfl rfl rfl rfl d
  · exact s.hostWrite_between_commands (l := .reg .liftW0) rfl rfl rfl rfl d
  · exact s.hostWrite_between_commands (l := .reg .liftW1) rfl rfl rfl rfl d

end Sys2Proof.Machine
end

section
/-! The transform commands in sequence: the two inverse engines end alike (`45_ntt_recursive.md` R128), a forward and an
inverse transform leave the buffer as it was (`44_ntt_iterative.md` R120 (1)), and what a direct forward transform leaves
there are the values of the polynomial (`43_root_table.md` R106). -/

namespace Sys2Proof.Machine

/-! ## The checks of the transforms -/

section
variable {s : State} {k : Nat}

theorem State.lengthAllowed_iff : s.lengthAllowed k ↔ s.LengthOk k := by
  unfold State.lengthAllowed State.LengthOk State.lognMin
  split <;> rfl

theorem State.canonical_memWords_iff {M : MemId} {lo n : Nat} :
    s.canonical (s.memWords M lo n) = true ↔ s.wordsBelowQ M lo (lo + n) := by
  refine ⟨fun h i h1 h2 => State.memNat_lt h h1 h2, fun h => State.canonical_iff.2 ?_⟩
  exact List.forall_mem_map.2 fun i hi => h _ (by omega) (by have := List.mem_range.1 hi; omega)

theorem State.canonical_bufWords_iff {M : MemId} {n : Nat} :
    s.canonical (s.memWords M 0 n) = true ↔ s.wordsBelowQ M 0 n := by
  rw [State.canonical_memWords_iff, zero_add]

theorem State.canonical_tableWords_iff {M : MemId} {k : Nat} :
    s.canonical (s.memWords M 1 (2 ^ k - 1)) = true ↔ s.wordsBelowQ M 1 (2 ^ k) := by
  rw [State.canonical_memWords_iff, Nat.add_sub_cancel' Nat.one_le_two_pow]

theorem State.canonical_pair_iff {v w : Word} :
    s.canonical [v, w] = true ↔ v.toNat < s.q.toNat ∧ w.toNat < s.q.toNat := by simp [State.canonical_iff]

theorem State.canonical_singleton_iff {w : Word} : s.canonical [w] = true ↔ w.toNat < s.q.toNat := by
  simp [State.canonical_iff]

theorem State.canonical_forwardInputs_iff : s.canonical (s.forwardInputs k) = true ↔ s.forwardCanonical k := by
  unfold State.forwardInputs State.forwardCanonical
  split
  case isTrue hl =>
    simp only [State.canonical_append, State.canonical_bufWords_iff, State.canonical_tableWords_iff, State.canonical_pair_iff,
      State.logL_lifted hl, and_assoc]
  case isFalse => rw [State.canonical_append, State.canonical_bufWords_iff, State.canonical_tableWords_iff]

theorem State.canonical_inverseInputs_iff : s.canonical (s.inverseInputs k) = true ↔ s.inverseCanonical k := by
  unfold State.inverseInputs State.inverseCanonical
  split
  case isTrue hl =>
    simp only [State.canonical_append, State.canonical_bufWords_iff, State.canonical_tableWords_iff, State.canonical_pair_iff,
      State.logL_lifted hl, and_assoc]
  case isFalse => rw [State.canonical_append, State.canonical_bufWords_iff, State.canonical_tableWords_iff]

/-- NTTI with its checks passed. -/
theorem exec_ntti_of_allowed (hv : s.cfgValid = true) (hk : s.lengthAllowed k) (hc : s.forwardCanonical k) :
    exec (.ntti k) s = .next (s.forwardResult k nttCore).complete := by
  have hok : s.forward k nttCore = .ok (s.forwardResult k nttCore) :=
    State.forward_ok.2 ⟨hv, State.lengthAllowed_iff.1 hk, State.canonical_forwardInputs_iff.2 hc, rfl⟩
  change s.finish (s.forward k nttCore) = _
  rw [hok, State.finish_ok]

/-- INTTI with its checks passed. -/
theorem exec_intti_of_allowed {u : State} (hv : s.cfgValid = true) (hk : s.lengthAllowed k) (hc : s.inverseCanonical k)
    (hn : s.ninv.toNat < s.q.toNat) (hu : s.inverseResult k (inttCore s.ninv.toNat) = .ok u) :
    exec (.intti k) s = .next u.complete := by
  have hinputs : s.canonical (s.inverseInputs k ++ [s.ninv]) = true :=
    State.canonical_append.2 ⟨State.canonical_inverseInputs_iff.2 hc, State.canonical_singleton_iff.2 hn⟩
  have hok : s.inverse k [s.ninv] (inttCore s.ninv.toNat) = .ok u :=
    State.inverse_ok.2 ⟨hv, State.lengthAllowed_iff.1 hk, hinputs, hu⟩
  change s.finish (s.inverse k [s.ninv] (inttCore s.ninv.toNat)) = _
  rw [hok, State.finish_ok]

/-! ## The two engines -/

theorem bind_congr_of_ok {α β : Type} {r : Except CmdError α} {f g : α → Except CmdError β}
    (h : ∀ a, r = .ok a → f a = g a) : (r >>= f) = (r >>= g) := by
  cases r with
  | error e => rfl
  | ok a => exact h a rfl

/-- R128 (a): NTTR and NTTI end alike from every state. -/
theorem exec_nttr_eq_exec_ntti (s : State) (k : Nat) : exec (.nttr k) s = exec (.ntti k) s := by
  have hresult : s.forwardResult k nttRec = s.forwardResult k nttCore := by
    unfold State.forwardResult
    beta_reduce
    rw [nttRec_eq_nttCore (s.bufFp_length _), nttRec_eq_nttCore (liftSeq_length _ _ _ _)]
  change s.finish (s.forward k nttRec) = s.finish (s.forward k nttCore)
  rw [State.forward, State.forward, hresult]

theorem State.inverseResult_inttRec (hF : s.modulus.Ok) (hc : s.inverseCanonical k)
    (hn : s.ninv.toNat = s.modulus.inv2 ^ s.logL k % s.q.toNat) :
    s.inverseResult k (inttRec s.modulus.inv2) = s.inverseResult k (inttCore s.ninv.toNat) := by
  unfold State.inverseResult
  unfold State.inverseCanonical at hc
  beta_reduce
  split
  case isTrue hl =>
    rw [if_pos hl, ← State.logL_lifted hl] at hc
    obtain ⟨hbuf0, hbuf1, hiroot0, hiroot1, -⟩ := hc
    rw [inttRec_eq_inttCore (iroot := s.irootFp2) (fp2Ops_residues hF) hF.inv2_lt hn (s.bufFp2_length _)
      (fun j h1 h2 => ⟨hiroot0 j h1 h2, hiroot1 j h1 h2⟩)
      (State.bufFp2_canon (State.canonical_bufWords_iff.2 hbuf0) (State.canonical_bufWords_iff.2 hbuf1))]
  case isFalse hl =>
    rw [if_neg hl] at hc
    rw [State.logL_direct hl] at hn
    rw [inttRec_eq_inttCore (iroot := s.irootFp) (fpOps_residues hF) hF.inv2_lt hn (s.bufFp_length _) hc.2
      (State.bufFp_lt (State.canonical_bufWords_iff.2 hc.1))]

/-- R128 (b): with `NINV` as it says, INTTR and INTTI end alike, errors included: `NINV` is canonical by itself. -/
theorem exec_inttr_eq_exec_intti (hF : s.cfgValid = true → s.modulus.Ok)
    (hn : s.ninv.toNat = s.modulus.inv2 ^ s.logL k % s.q.toNat) : exec (.inttr k) s = exec (.intti k) s := by
  change s.finish (s.inverse k [] (inttRec s.modulus.inv2)) = s.finish (s.inverse k [s.ninv] (inttCore s.ninv.toNat))
  refine congrArg s.finish (bind_congr_of_ok fun _ hv => bind_congr_of_ok fun _ _ => ?_)
  have hF := hF (State.requireConfigured_ok.1 hv)
  have hcanon : s.canonical [s.ninv] = true :=
    State.canonical_singleton_iff.2 (hn.trans_lt (Nat.mod_lt _ hF.prime.pos))
  have hinputs : s.canonical (s.inverseInputs k ++ []) = s.canonical (s.inverseInputs k ++ [s.ninv]) := by
    rw [Bool.eq_iff_iff, List.append_nil, State.canonical_append, and_iff_left hcanon]
  rw [State.requireCanonical, State.requireCanonical, hinputs]
  refine bind_congr_of_ok fun _ hc => State.inverseResult_inttRec hF ?_ hn
  exact State.canonical_inverseInputs_iff.1 (State.canonical_append.1 (State.requireCanonical_ok.1 hc)).1

end

/-- Settles O48: the engines compute one function of the residues, and `NINV` passes the check that INTTI alone makes. -/
theorem inverseEnginesEndInTheSameState : Obligations.InverseEnginesEndInTheSameState := fun _ _ hs hn =>
  exec_inttr_eq_exec_intti (fun hv => hs.modulus_ok hv) hn

/-! ## What a transform leaves in the buffers -/

section
variable {s t : State} {M : MemId} {k n : Nat} {vs : List Nat}

theorem State.holds_setMemSeq (s : State) (M : MemId) (vs : List Nat) : (s.setMemSeq M vs).holds M vs :=
  s.memWord_setMemSeq_same M vs

theorem State.holds.setMemSeq_other {B : MemId} {ws : List Nat} (h : s.holds M vs) (hM : M ≠ B)
    (hv : vs.length ≤ Config.nmax) (hw : ws.length ≤ Config.nmax) : (s.setMemSeq B ws).holds M vs := fun j hj =>
  (s.memWord_setMemSeq_other hw (by omega) (.inl hM)).trans (h j hj)

theorem State.holds.complete (h : s.holds M vs) : s.complete.holds M vs := h

/-- Canonical numbers held are the numbers read. -/
theorem State.holds.memNat (h : t.holds M vs) (hlt : ∀ v ∈ vs, v < t.q.toNat) {j : Nat} (hj : j < vs.length) :
    t.memNat M j = vs[j] := by
  have hword : vs[j] < 2 ^ 32 := (hlt _ (List.getElem_mem hj)).trans t.q.isLt
  rw [State.memNat, h j hj, BitVec.toNat_ofNat, Nat.mod_eq_of_lt hword]

theorem State.holds.bufFp (h : t.holds .buf0 vs) (hlen : vs.length = n) (hlt : ∀ v ∈ vs, v < t.q.toNat) :
    t.bufFp n = vs := by
  refine List.ext_getElem (by rw [State.bufFp_length, hlen]) fun j h1 h2 => ?_
  rw [← h.memNat hlt h2]
  simp [State.bufFp, State.memSeq]

theorem State.bufFp2_of_holds {b : List Fp2} (h0 : t.holds .buf0 (b.map fun x => x.1))
    (h1 : t.holds .buf1 (b.map fun x => x.2)) (hlen : b.length = n) (hb : ∀ x ∈ b, Fp2.Canon t.modulus x) :
    t.bufFp2 n = b := by
  refine List.ext_getElem (by rw [State.bufFp2_length, hlen]) fun j hj1 hj2 => ?_
  have hfst := h0.memNat (List.forall_mem_map.2 fun x hx => (hb x hx).1) (j := j) (by rwa [List.length_map])
  have hsnd := h1.memNat (List.forall_mem_map.2 fun x hx => (hb x hx).2) (j := j) (by rwa [List.length_map])
  simpa [State.bufFp2, State.memPair] using Prod.ext (hfst.trans (List.getElem_map _)) (hsnd.trans (List.getElem_map _))

/-- The words of a buffer that holds what another state reads are that state's. -/
theorem State.holds.memWord_eq (h : t.holds .buf0 (s.bufFp n)) {j : Nat} (hj : j < n) :
    t.memWord .buf0 j = s.memWord .buf0 j := by
  rw [h j (by rwa [State.bufFp_length])]
  simp [State.bufFp, State.memSeq, State.memNat]

theorem State.wordsBelowQ_of_bufFp_lt (h : ∀ v ∈ s.bufFp n, v < s.q.toNat) : s.wordsBelowQ .buf0 0 n := fun i _ hi =>
  h _ (List.mem_map.2 ⟨i, List.mem_range.2 hi, rfl⟩)

theorem State.wordsBelowQ_of_bufFp2_canon (h : ∀ x ∈ s.bufFp2 n, Fp2.Canon s.modulus x) :
    s.wordsBelowQ .buf0 0 n ∧ s.wordsBelowQ .buf1 0 n :=
  have hpair (i : Nat) (hi : i < n) := h _ (List.mem_map.2 ⟨i, List.mem_range.2 hi, rfl⟩)
  ⟨fun i _ hi => (hpair i hi).1, fun i _ hi => (hpair i hi).2⟩

end

/-! ## Transforms in the direct configuration -/

section
variable {s : State} {k : Nat}

/-- The forward network of the block on its buffer, direct. -/
def State.directNet (s : State) (k : Nat) : List Nat := nttCore (fpOps s.modulus) s.rootFp k (s.bufFp (2 ^ k))

theorem State.directNet_length (s : State) (k : Nat) : (s.directNet k).length = 2 ^ k :=
  (nttCore_length _ _ _).trans (s.bufFp_length _)

theorem State.forwardCanonical_direct (hl : s.lift = false) :
    s.forwardCanonical k ↔ s.wordsBelowQ .buf0 0 (2 ^ k) ∧ s.wordsBelowQ .root0 1 (2 ^ k) := by
  simp [State.forwardCanonical, hl]

theorem State.inverseCanonical_direct (hl : s.lift = false) :
    s.inverseCanonical k ↔ s.wordsBelowQ .buf0 0 (2 ^ k) ∧ s.wordsBelowQ .iroot0 1 (2 ^ k) := by
  simp [State.inverseCanonical, hl]

theorem State.directNet_lt (hF : s.modulus.Ok) (hl : s.lift = false) (hc : s.forwardCanonical k) :
    ∀ v ∈ s.directNet k, v < s.q.toNat := by
  obtain ⟨hbuf, hroot⟩ := (State.forwardCanonical_direct hl).1 hc
  exact nttCore_closed (fpOps_closed hF) hroot (State.bufFp_lt (State.canonical_bufWords_iff.2 hbuf))

/-- NTTI, direct: the buffer reads as the network. -/
theorem exec_ntti_direct (hF : s.modulus.Ok) (hv : s.cfgValid = true) (hl : s.lift = false) (hk : s.lengthAllowed k)
    (hc : s.forwardCanonical k) : ∃ t, exec (.ntti k) s = .next t ∧ t.bufFp (2 ^ k) = s.directNet k := by
  have hresult : s.forwardResult k nttCore = s.setMemSeq .buf0 (s.directNet k) := if_neg (by simp [hl])
  refine ⟨_, exec_ntti_of_allowed hv hk hc, ?_⟩
  rw [hresult]
  exact (s.holds_setMemSeq _ _).complete.bufFp (s.directNet_length k) (State.directNet_lt hF hl hc)

/-- INTTI, direct: the buffer holds the network. -/
theorem exec_intti_direct (hv : s.cfgValid = true) (hl : s.lift = false) (hk : s.lengthAllowed k)
    (hc : s.inverseCanonical k) (hn : s.ninv.toNat < s.q.toNat) :
    ∃ u, exec (.intti k) s = .next u ∧
      u.holds .buf0 (inttCore s.ninv.toNat (fpOps s.modulus) s.irootFp k (s.bufFp (2 ^ k))) :=
  ⟨_, exec_intti_of_allowed hv hk hc hn (if_neg (by simp [hl])), (s.holds_setMemSeq _ _).complete⟩

/-- R106 for the block's network. -/
theorem State.directNet_eq_polyValue {ψ : Nat} (hF : s.modulus.Ok) (hl : s.lift = false) (hc : s.forwardCanonical k)
    (hψ : ψ ^ 2 ^ k % s.q.toNat = s.q.toNat - 1)
    (hroot : ∀ j, 1 ≤ j → j < 2 ^ k → s.memNat .root0 j = ψ ^ brv k j % s.q.toNat) :
    s.directNet k =
      (List.range (2 ^ k)).map fun j => polyValue s.modulus.q (s.bufFp (2 ^ k)) (ψ ^ (2 * brv k j + 1)) := by
  obtain ⟨hbuf, hlt⟩ := (State.forwardCanonical_direct hl).1 hc
  have hK := fpOps_residues hF
  have hpow : ∀ j, 1 ≤ j → j < 2 ^ k → ((s.rootFp j : Nat) : ZMod s.modulus.q) = (ψ : ZMod s.modulus.q) ^ brv k j :=
    fun j h1 h2 => by exact_mod_cast (cast_eq_of_mod_eq hK.char (hroot j h1 h2).symm).symm
  refine eq_of_map_eq (φ := fun v : Nat => (v : ZMod s.modulus.q)) hK.inj (State.directNet_lt hF hl hc)
    (List.forall_mem_map.2 fun _ _ => Nat.mod_lt _ hF.prime.pos) ?_
  rw [State.directNet, map_nttCore_eq_polyEval (root := s.rootFp) hK (s.bufFp_length _) (pow_eq_neg_one_of_mod hF hψ) hlt
    hpow (State.bufFp_lt (State.canonical_bufWords_iff.2 hbuf)), List.map_map]
  refine List.map_congr_left fun j _ => ?_
  rw [Function.comp_apply, polyValue_cast hK.char, Nat.cast_pow]

end

/-- Settles O52: the residues of the network are the values, and canonical numbers are determined by their residues. -/
theorem directTransformEvaluatesThePolynomial : Obligations.DirectTransformEvaluatesThePolynomial := by
  intro s k ψ hs hv hl hk hc hψ hroot
  have hF := hs.modulus_ok hv
  obtain ⟨t, ht, hread⟩ := exec_ntti_direct hF hv hl hk hc
  refine ⟨t, ht, fun j hj => ?_⟩
  have hword := congrArg (fun l => l[j]?) (hread.trans (State.directNet_eq_polyValue hF hl hc hψ hroot))
  simp only [State.bufFp, State.memSeq, List.getElem?_map, List.getElem?_range hj, Option.map_some,
    Option.some.injEq] at hword
  exact hword

/-! ## Transforms in the lifted configuration -/

section
variable {s : State} {k : Nat}

/-- The lifted buffer. -/
def State.liftedBuf (s : State) (k : Nat) : List Fp2 := liftSeq s.modulus s.liftRoot (2 ^ (k - 1)) (s.bufFp (2 ^ k))

/-- The forward network of the block on its lifted buffer. -/
def State.liftedNet (s : State) (k : Nat) : List Fp2 := nttCore (fp2Ops s.modulus) s.rootFp2 (k - 1) (s.liftedBuf k)

theorem State.liftedBuf_length (s : State) (k : Nat) : (s.liftedBuf k).length = 2 ^ (k - 1) := liftSeq_length _ _ _ _

theorem State.liftedNet_length (s : State) (k : Nat) : (s.liftedNet k).length = 2 ^ (k - 1) :=
  (nttCore_length _ _ _).trans (s.liftedBuf_length k)

theorem State.forwardCanonical_lifted (hl : s.lift = true) :
    s.forwardCanonical k ↔ s.wordsBelowQ .buf0 0 (2 ^ k) ∧ s.liftW0.toNat < s.q.toNat ∧ s.liftW1.toNat < s.q.toNat ∧
      s.wordsBelowQ .root0 1 (2 ^ (k - 1)) ∧ s.wordsBelowQ .root1 1 (2 ^ (k - 1)) := by
  simp [State.forwardCanonical, hl]

theorem State.inverseCanonical_lifted (hl : s.lift = true) :
    s.inverseCanonical k ↔ s.wordsBelowQ .buf0 0 (2 ^ (k - 1)) ∧ s.wordsBelowQ .buf1 0 (2 ^ (k - 1)) ∧
      s.wordsBelowQ .iroot0 1 (2 ^ (k - 1)) ∧ s.wordsBelowQ .iroot1 1 (2 ^ (k - 1)) ∧
      s.liftW0.toNat < s.q.toNat ∧ s.liftW1.toNat < s.q.toNat := by
  simp [State.inverseCanonical, hl]

theorem State.liftedBuf_canon (hF : s.modulus.Ok) (hl : s.lift = true) (hc : s.forwardCanonical k) :
    ∀ x ∈ s.liftedBuf k, Fp2.Canon s.modulus x := by
  obtain ⟨hbuf, hw0, hw1, -⟩ := (State.forwardCanonical_lifted hl).1 hc
  exact liftSeq_canon hF ⟨hw0, hw1⟩ (State.bufFp_lt (State.canonical_bufWords_iff.2 hbuf))

theorem State.rootFp2_canon (hl : s.lift = true) (hc : s.forwardCanonical k) :
    ∀ j, 1 ≤ j → j < 2 ^ (k - 1) → Fp2.Canon s.modulus (s.rootFp2 j) := by
  obtain ⟨-, -, -, hroot0, hroot1⟩ := (State.forwardCanonical_lifted hl).1 hc
  exact fun j h1 h2 => ⟨hroot0 j h1 h2, hroot1 j h1 h2⟩

theorem State.liftedNet_canon (hF : s.modulus.Ok) (hl : s.lift = true) (hc : s.forwardCanonical k) :
    ∀ x ∈ s.liftedNet k, Fp2.Canon s.modulus x :=
  nttCore_closed (fp2Ops_closed hF) (State.rootFp2_canon hl hc) (State.liftedBuf_canon hF hl hc)

/-- The lengths of a lifted transform: n = 2L. -/
theorem State.two_pow_lifted (hl : s.lift = true) (hk : s.lengthAllowed k) : 2 ^ k = 2 * 2 ^ (k - 1) := by
  rw [State.lengthAllowed, if_pos hl] at hk
  rw [← pow_succ', Nat.sub_add_cancel (by omega)]

theorem State.lengthAllowed.two_pow_le_nmax (hk : s.lengthAllowed k) (hs : s.Inv) : 2 ^ k ≤ Config.nmax :=
  ((State.lengthAllowed_iff.1 hk).le_nmax hs).2

/-- NTTI, lifted: the buffers read as the network. -/
theorem exec_ntti_lifted (hs : s.Inv) (hv : s.cfgValid = true) (hl : s.lift = true) (hk : s.lengthAllowed k)
    (hc : s.forwardCanonical k) : ∃ t, exec (.ntti k) s = .next t ∧ t.bufFp2 (2 ^ (k - 1)) = s.liftedNet k := by
  have hF := hs.modulus_ok hv
  have hdouble := State.two_pow_lifted hl hk
  have hmax := hk.two_pow_le_nmax hs
  have hlen (c : Fp2 → Nat) : ((s.liftedNet k).map c).length ≤ Config.nmax := by
    rw [List.length_map, State.liftedNet_length]
    omega
  have hresult : s.forwardResult k nttCore = s.setBufFp2 (s.liftedNet k) := by
    rw [State.liftedNet, State.liftedBuf, ← State.logL_lifted hl]
    exact if_pos hl
  refine ⟨_, exec_ntti_of_allowed hv hk hc, ?_⟩
  rw [hresult]
  exact State.bufFp2_of_holds ((s.holds_setMemSeq _ _).setMemSeq_other (by decide) (hlen _) (hlen _)).complete
    (State.holds_setMemSeq _ _ _).complete (s.liftedNet_length k) (State.liftedNet_canon hF hl hc)

/-- INTTI, lifted: the buffer holds the projected sequence. -/
theorem exec_intti_lifted {c im : List Nat} (hmax : 2 ^ k ≤ Config.nmax) (hv : s.cfgValid = true) (hl : s.lift = true)
    (hk : s.lengthAllowed k) (hc : s.inverseCanonical k) (hn : s.ninv.toNat < s.q.toNat)
    (hp : projectSeq s.modulus s.liftRoot
      (inttCore s.ninv.toNat (fp2Ops s.modulus) s.irootFp2 (k - 1) (s.bufFp2 (2 ^ (k - 1)))) = .ok (c, im)) :
    ∃ u, exec (.intti k) s = .next u ∧ u.holds .buf0 c := by
  have hdouble := State.two_pow_lifted hl hk
  obtain ⟨hlen1, hlen2⟩ := projectSeq_length hp
  rw [inttCore_length, State.bufFp2_length] at hlen1 hlen2
  simp only at hlen1 hlen2
  have hresult : s.inverseResult k (inttCore s.ninv.toNat) = .ok ((s.setMemSeq .buf0 c).setMemSeq .buf1 im) := by
    rw [← State.logL_lifted hl] at hp
    exact (if_pos hl).trans (bind_eq_ok.2 ⟨(c, im), hp, rfl⟩)
  exact ⟨_, exec_intti_of_allowed hv hk hc hn hresult,
    ((s.holds_setMemSeq _ _).setMemSeq_other (by decide) (by omega) (by omega)).complete⟩

end

/-! ## Round trips -/

/-- What a transform that follows another finds as the first did: the configuration, the registers of a transform, and the
tables. -/
structure State.SameSetup (s t : State) : Prop where
  cfgValid : t.cfgValid = s.cfgValid
  lift : t.lift = s.lift
  q : t.q = s.q
  mers : t.mers = s.mers
  maxLog : t.maxLog = s.maxLog
  ninv : t.ninv = s.ninv
  liftW0 : t.liftW0 = s.liftW0
  liftW1 : t.liftW1 = s.liftW1
  tables : s.KeepsTables t

section
variable {s t : State} {k : Nat} {f g i : Instr}

theorem exec_sameSetup (hs : s.Inv) (h : exec i s = .next t) (hi : i ≠ .setmod) : s.SameSetup t := by
  obtain ⟨-, -, -, hninv, hw0, hw1, -, -, -, -, -, -, -, -, -, -, hcfg, -⟩ := commandsWriteOnlyTheirRegisters i s t h
  obtain ⟨hq, hmax, hv, hl, hm⟩ := hcfg hi
  exact ⟨hv, hl, hq, hm, hmax, hninv, hw0, hw1, exec_keepsTables hs h⟩

theorem State.SameSetup.modulus (h : s.SameSetup t) : t.modulus = s.modulus := by
  rw [State.modulus, h.q, h.mers]
  rfl

theorem State.SameSetup.liftRoot (h : s.SameSetup t) : t.liftRoot = s.liftRoot := by
  rw [State.liftRoot, h.liftW0, h.liftW1]
  rfl

theorem State.SameSetup.logL (h : s.SameSetup t) (k : Nat) : t.logL k = s.logL k := by rw [State.logL, h.lift]; rfl

theorem State.SameSetup.lengthAllowed (h : s.SameSetup t) (hk : s.lengthAllowed k) : t.lengthAllowed k := by
  rwa [State.lengthAllowed, h.lift, h.maxLog]

theorem State.SameSetup.memNat (h : s.SameSetup t) {M : MemId} (h0 : M ≠ .buf0) (h1 : M ≠ .buf1) {j : Nat}
    (hj : j < Config.nmax) : t.memNat M j = s.memNat M j := congrArg BitVec.toNat (h.tables M j h0 h1 hj)

theorem State.SameSetup.wordsBelowQ (h : s.SameSetup t) {M : MemId} (h0 : M ≠ .buf0) (h1 : M ≠ .buf1) {lo hi : Nat}
    (hmax : hi ≤ Config.nmax) (hw : s.wordsBelowQ M lo hi) : t.wordsBelowQ M lo hi := fun j hlo hhi => by
  rw [h.tables M j h0 h1 (by omega), h.q]
  exact hw j hlo hhi

/-- The engines are interchangeable on the way out and, `NINV` being 1/L, on the way back. -/
theorem State.RoundTrips.of_iterative (h : s.RoundTrips k (.ntti k) (.intti k)) (hs : s.Inv) (hF : s.modulus.Ok)
    (hn : s.ninv.toNat < s.q.toNat) (hninv : s.ninv.toNat * 2 ^ s.logL k % s.q.toNat = 1)
    (hf : f = .ntti k ∨ f = .nttr k) (hg : g = .intti k ∨ g = .inttr k) : s.RoundTrips k f g := by
  obtain ⟨t, u, ht, hu, hbuf⟩ := h
  have hsame := exec_sameSetup hs ht nofun
  have hninv' : t.ninv.toNat = t.modulus.inv2 ^ t.logL k % t.q.toNat := by
    rw [hsame.ninv, hsame.modulus, hsame.q, hsame.logL]
    exact ninv_eq_inv2_pow hF hn hninv
  refine ⟨t, u, ?_, ?_, hbuf⟩
  · obtain rfl | rfl := hf
    exacts [ht, (exec_nttr_eq_exec_ntti s k).trans ht]
  · obtain rfl | rfl := hg
    exacts [hu, (exec_inttr_eq_exec_intti (fun _ => hsame.modulus ▸ hF) hninv').trans hu]

/-- The round trip of the iterative engine, direct. -/
theorem State.roundTrips_direct (hs : s.Inv) (hv : s.cfgValid = true) (hl : s.lift = false) (hk : s.lengthAllowed k)
    (hc : s.forwardCanonical k) (hiroot : s.wordsBelowQ .iroot0 1 (2 ^ k)) (hn : s.ninv.toNat < s.q.toNat)
    (hinv : ∀ j, 1 ≤ j → j < 2 ^ k → s.memNat .root0 j * s.memNat .iroot0 j % s.q.toNat = 1)
    (hninv : s.ninv.toNat * 2 ^ k % s.q.toNat = 1) : s.RoundTrips k (.ntti k) (.intti k) := by
  have hF := hs.modulus_ok hv
  have hmax := hk.two_pow_le_nmax hs
  obtain ⟨hbuf, hroot⟩ := (State.forwardCanonical_direct hl).1 hc
  obtain ⟨t, ht, hread⟩ := exec_ntti_direct hF hv hl hk hc
  have hsame := exec_sameSetup hs ht nofun
  have hcanon : t.inverseCanonical k := (State.inverseCanonical_direct (hsame.lift.trans hl)).2
    ⟨State.wordsBelowQ_of_bufFp_lt (by rw [hread, hsame.q]; exact State.directNet_lt hF hl hc),
      hsame.wordsBelowQ (by decide) (by decide) hmax hiroot⟩
  have hresidue : ∀ j, 1 ≤ j → j < 2 ^ k → ((s.rootFp j : Nat) : ZMod s.modulus.q) * (s.irootFp j : Nat) = 1 :=
    fun j h1 h2 => by exact_mod_cast cast_eq_of_mod_eq (ZMod.natCast_self s.modulus.q) (hinv j h1 h2)
  have hentries : SameEntries (2 ^ k) s.irootFp t.irootFp := fun j _ h2 => hsame.memNat (by decide) (by decide) (by omega)
  have hback : inttCore s.ninv.toNat (fpOps s.modulus) t.irootFp k (s.directNet k) = s.bufFp (2 ^ k) :=
    (inttCore_readsEntries _ _ (s.directNet_length k) hentries).trans
      (inttCore_nttCore hF (fpOps_residues hF) hn hninv (s.bufFp_length _) hroot hiroot hresidue
        (State.bufFp_lt (State.canonical_bufWords_iff.2 hbuf)))
  obtain ⟨u, hu, hholds⟩ := exec_intti_direct (hsame.cfgValid.trans hv) (hsame.lift.trans hl)
    (hsame.lengthAllowed hk) hcanon (by rwa [hsame.ninv, hsame.q])
  rw [hsame.ninv, hsame.modulus, hread, hback] at hholds
  exact ⟨t, u, ht, hu, fun j hj => hholds.memWord_eq hj⟩

/-- The round trip of the iterative engine, lifted. -/
theorem State.roundTrips_lifted (hs : s.Inv) (hv : s.cfgValid = true) (hl : s.lift = true)
    (hk : s.lengthAllowed k) (hc : s.forwardCanonical k) (hiroot0 : s.wordsBelowQ .iroot0 1 (2 ^ (k - 1)))
    (hiroot1 : s.wordsBelowQ .iroot1 1 (2 ^ (k - 1))) (hn : s.ninv.toNat < s.q.toNat) (hω : s.liftRoot ≠ (0, 0))
    (hinv : ∀ j, 1 ≤ j → j < 2 ^ (k - 1) → Fp2.InversePair s.modulus (s.rootFp2 j) (s.irootFp2 j))
    (hninv : s.ninv.toNat * 2 ^ (k - 1) % s.q.toNat = 1) : s.RoundTrips k (.ntti k) (.intti k) := by
  have hF := hs.modulus_ok hv
  have hdouble := State.two_pow_lifted hl hk
  have hmax := hk.two_pow_le_nmax hs
  obtain ⟨hbuf, hw0, hw1, -⟩ := (State.forwardCanonical_lifted hl).1 hc
  obtain ⟨t, ht, hread⟩ := exec_ntti_lifted hs hv hl hk hc
  have hsame := exec_sameSetup hs ht nofun
  have hcanon : t.inverseCanonical k := by
    obtain ⟨hbuf0, hbuf1⟩ := State.wordsBelowQ_of_bufFp2_canon (s := t) (n := 2 ^ (k - 1))
      (by rw [hread, hsame.modulus]; exact State.liftedNet_canon hF hl hc)
    refine (State.inverseCanonical_lifted (hsame.lift.trans hl)).2 ⟨hbuf0, hbuf1,
      hsame.wordsBelowQ (by decide) (by decide) (by omega) hiroot0,
      hsame.wordsBelowQ (by decide) (by decide) (by omega) hiroot1, ?_, ?_⟩
    · rwa [hsame.liftW0, hsame.q]
    · rwa [hsame.liftW1, hsame.q]
  have hentries : SameEntries (2 ^ (k - 1)) s.irootFp2 t.irootFp2 := fun j _ h2 =>
    Prod.ext (hsame.memNat (by decide) (by decide) (by omega)) (hsame.memNat (by decide) (by decide) (by omega))
  have hback : inttCore s.ninv.toNat (fp2Ops s.modulus) t.irootFp2 (k - 1) (s.liftedNet k) = s.liftedBuf k :=
    (inttCore_readsEntries _ _ (s.liftedNet_length k) hentries).trans
      (inttCore_nttCore hF (fp2Ops_residues hF) hn hninv (s.liftedBuf_length k) (State.rootFp2_canon hl hc)
        (fun j h1 h2 => ⟨hiroot0 j h1 h2, hiroot1 j h1 h2⟩) (fun j h1 h2 => (hinv j h1 h2).residue hF)
        (State.liftedBuf_canon hF hl hc))
  have hproject := projectSeq_liftSeq hF (hs.mod_four_of_lift hv hl) (ω := s.liftRoot) ⟨hw0, hw1⟩ hω
    ((s.bufFp_length (2 ^ k)).trans hdouble) (State.bufFp_lt (State.canonical_bufWords_iff.2 hbuf))
  change projectSeq s.modulus s.liftRoot (s.liftedBuf k) = _ at hproject
  rw [← hback, ← hsame.modulus, ← hsame.liftRoot, ← hsame.ninv, ← hread] at hproject
  obtain ⟨u, hu, hholds⟩ := exec_intti_lifted hmax (hsame.cfgValid.trans hv) (hsame.lift.trans hl)
    (hsame.lengthAllowed hk) hcanon (by rwa [hsame.ninv, hsame.q]) hproject
  exact ⟨t, u, ht, hu, fun j hj => hholds.memWord_eq hj⟩

end

/-- Settles O50: the networks of the iterative engine undo each other on the buffer, and those of the recursive engine are the
same functions. -/
theorem roundTripDirect : Obligations.RoundTripDirect := by
  intro s k f g hs hv hl hk hc hiroot hn hinv hninv hf hg
  refine (State.roundTrips_direct hs hv hl hk hc hiroot hn hinv hninv).of_iterative hs (hs.modulus_ok hv) hn ?_ hf hg
  rwa [State.logL_direct (by simp [hl])]

/-- Settles O51: as O50, on the lifted buffer, from which `project` gets back the buffer by an ω of non-zero norm. -/
theorem roundTripLifted : Obligations.RoundTripLifted := by
  intro s k f g hs hv hl hk hc hiroot0 hiroot1 hn hω hinv hninv hf hg
  have hpair : ∀ j, 1 ≤ j → j < 2 ^ (k - 1) → Fp2.InversePair s.modulus (s.rootFp2 j) (s.irootFp2 j) := fun j h1 h2 =>
    ⟨State.rootFp2_canon hl hc j h1 h2, ⟨hiroot0 j h1 h2, hiroot1 j h1 h2⟩, hinv j h1 h2⟩
  have hne : s.liftRoot ≠ (0, 0) := fun h => by
    obtain ⟨h0, h1⟩ : s.liftW0.toNat = 0 ∧ s.liftW1.toNat = 0 := Prod.mk.injEq .. ▸ h
    exact hω (by rw [h0, h1]; exact Nat.zero_mod _)
  refine (State.roundTrips_lifted hs hv hl hk hc hiroot0 hiroot1 hn hne hpair hninv).of_iterative hs (hs.modulus_ok hv) hn ?_
    hf hg
  rwa [State.logL_lifted hl]

end Sys2Proof.Machine
end

section
/-! The transforms of `44_ntt_iterative.md` and `45_ntt_recursive.md` as commands: what they refuse, in the order of the
checks of R107, and what they write when they complete. -/

namespace Sys2Proof.Machine

/-! ## What a transform refuses -/

section
variable {s : State} {k : Nat} {e : CmdError} {extra inputs : List Word} {lazyNet : List Nat → Except CmdError (List Nat)}
  {net : {α : Type} → ElemOps α → (Nat → α) → Nat → List α → List α}

theorem State.forward_error :
    s.forward k net = .error e ↔
      (¬s.cfgValid = true ∧ e = .unsupportedModulus) ∨
      s.cfgValid = true ∧ ((¬s.LengthOk k ∧ e = .invalidLength) ∨
        s.LengthOk k ∧ ¬s.canonical (s.forwardInputs k) = true ∧ e = .nonCanonical) := by
  simp only [State.forward, bind_eq_error, State.requireConfigured_ok, State.requireConfigured_error, State.requireLength_ok,
    State.requireLength_error, State.requireCanonical_ok, State.requireCanonical_error, exists_const, reduceCtorEq, and_false,
    or_false]

theorem State.inverse_error :
    s.inverse k extra net = .error e ↔
      (¬s.cfgValid = true ∧ e = .unsupportedModulus) ∨
      s.cfgValid = true ∧ ((¬s.LengthOk k ∧ e = .invalidLength) ∨
        s.LengthOk k ∧ ((¬s.canonical (s.inverseInputs k ++ extra) = true ∧ e = .nonCanonical) ∨
          s.canonical (s.inverseInputs k ++ extra) = true ∧ s.inverseResult k net = .error e)) := by
  simp only [State.inverse, bind_eq_error, State.requireConfigured_ok, State.requireConfigured_error, State.requireLength_ok,
    State.requireLength_error, State.requireCanonical_ok, State.requireCanonical_error, exists_const]

/-! Rank 4, the length. -/

theorem State.forward_of_not_allowed (hv : s.cfgValid = true) (hk : ¬s.lengthAllowed k) :
    s.forward k net = .error .invalidLength :=
  State.forward_error.2 (.inr ⟨hv, .inl ⟨mt State.lengthAllowed_iff.2 hk, rfl⟩⟩)

theorem State.inverse_of_not_allowed (hv : s.cfgValid = true) (hk : ¬s.lengthAllowed k) :
    s.inverse k extra net = .error .invalidLength :=
  State.inverse_error.2 (.inr ⟨hv, .inl ⟨mt State.lengthAllowed_iff.2 hk, rfl⟩⟩)

theorem State.lazyTransform_of_not_allowed (hv : s.cfgValid = true) (hq : s.q.toNat = Config.lazyQ)
    (hk : ¬s.lengthAllowed k) : s.lazyTransform k inputs lazyNet = .error .invalidLength :=
  State.lazyTransform_error.2 (.inr ⟨hv, .inr ⟨hq, .inl ⟨mt State.lengthAllowed_iff.2 hk, rfl⟩⟩⟩)

/-! Rank 5, the input set. -/

theorem State.forward_of_not_canonical (hv : s.cfgValid = true) (hk : s.lengthAllowed k) (hc : ¬s.forwardCanonical k) :
    s.forward k net = .error .nonCanonical :=
  State.forward_error.2 (.inr ⟨hv, .inr ⟨State.lengthAllowed_iff.1 hk, mt State.canonical_forwardInputs_iff.1 hc, rfl⟩⟩)

theorem State.inverse_of_not_canonical (hv : s.cfgValid = true) (hk : s.lengthAllowed k)
    (hc : ¬(s.inverseCanonical k ∧ s.canonical extra = true)) : s.inverse k extra net = .error .nonCanonical := by
  have hinputs : ¬s.canonical (s.inverseInputs k ++ extra) = true := by
    rwa [State.canonical_append, State.canonical_inverseInputs_iff]
  exact State.inverse_error.2 (.inr ⟨hv, .inr ⟨State.lengthAllowed_iff.1 hk, .inl ⟨hinputs, rfl⟩⟩⟩)

theorem State.lazyTransform_of_not_canonical (hv : s.cfgValid = true) (hq : s.q.toNat = Config.lazyQ)
    (hk : s.lengthAllowed k) (hc : ¬s.canonical inputs = true) : s.lazyTransform k inputs lazyNet = .error .nonCanonical :=
  State.lazyTransform_error.2 (.inr ⟨hv, .inr ⟨hq, .inr ⟨State.lengthAllowed_iff.1 hk, .inl ⟨hc, rfl⟩⟩⟩⟩)

theorem State.lazyForwardInputs_eq (hl : s.lift = false) (k : Nat) : s.lazyForwardInputs k = s.forwardInputs k :=
  (if_neg (by simp [hl])).symm

theorem State.lazyInverseInputs_eq (hl : s.lift = false) (k : Nat) :
    s.lazyInverseInputs k = s.inverseInputs k ++ [s.ninv] := by
  rw [State.inverseInputs, if_neg (by simp [hl]), State.lazyInverseInputs]

theorem State.canonical_lazyForwardInputs_iff (hl : s.lift = false) :
    s.canonical (s.lazyForwardInputs k) = true ↔ s.forwardCanonical k := by
  rw [State.lazyForwardInputs_eq hl, State.canonical_forwardInputs_iff]

theorem State.canonical_lazyInverseInputs_iff (hl : s.lift = false) :
    s.canonical (s.lazyInverseInputs k) = true ↔ s.inverseCanonical k ∧ s.ninv.toNat < s.q.toNat := by
  rw [State.lazyInverseInputs_eq hl, State.canonical_append, State.canonical_inverseInputs_iff, State.canonical_singleton_iff]

/-! Rank 6, the lift root. -/

theorem f2norm_eq {F : Modulus} {x : Fp2} (hF : F.Ok) (hx : Fp2.Canon F x) : f2norm F x = (x.1 * x.1 + x.2 * x.2) % F.q := by
  refine (mod_eq_of_cast_eq (f2norm_lt hF hx) ?_).symm
  rw [f2norm_cast hF hx]
  push_cast
  rfl

theorem projectSeq_of_norm_eq_zero {F : Modulus} {ω : Fp2} (h : f2norm F ω = 0) (b : List Fp2) :
    projectSeq F ω b = .error .notInvertible :=
  bind_eq_error.2 (.inl (if_pos h))

theorem State.liftRoot_canon (hl : s.lift = true) (hc : s.inverseCanonical k) : Fp2.Canon s.modulus s.liftRoot := by
  obtain ⟨-, -, -, -, hw0, hw1⟩ := (State.inverseCanonical_lifted hl).1 hc
  exact ⟨hw0, hw1⟩

theorem State.inverse_of_not_invertible (hs : s.Inv) (hv : s.cfgValid = true) (hl : s.lift = true) (hk : s.lengthAllowed k)
    (hc : s.inverseCanonical k) (hextra : s.canonical extra = true) (hω : ¬s.liftRootInvertible) :
    s.inverse k extra net = .error .notInvertible := by
  have hnorm : f2norm s.modulus s.liftRoot = 0 :=
    (f2norm_eq (hs.modulus_ok hv) (State.liftRoot_canon hl hc)).trans (not_not.1 hω)
  have hresult : s.inverseResult k net = .error .notInvertible :=
    (if_pos hl).trans (bind_eq_error.2 (.inl (projectSeq_of_norm_eq_zero hnorm _)))
  have hinputs : s.canonical (s.inverseInputs k ++ extra) = true :=
    State.canonical_append.2 ⟨State.canonical_inverseInputs_iff.2 hc, hextra⟩
  exact State.inverse_error.2 (.inr ⟨hv, .inr ⟨State.lengthAllowed_iff.1 hk, .inr ⟨hinputs, hresult⟩⟩⟩)

end

/-- Settles O26: the length is checked in each of the three forms, and MAXLOG is at most 11. -/
theorem transformsOfOtherLengthsRaiseInvalidLength : Obligations.TransformsOfOtherLengthsRaiseInvalidLength := by
  refine ⟨fun i k s hi hv hlazy hk => ?refused, fun k s hs hk => ?fits⟩
  case refused =>
    cases i with
    | ntti l | nttr l =>
      cases hi
      exact State.finish_of_error (State.forward_of_not_allowed hv hk)
    | intti l | inttr l =>
      cases hi
      exact State.finish_of_error (State.inverse_of_not_allowed hv hk)
    | nttil l =>
      cases hi
      exact State.finish_of_error (State.lazyTransform_of_not_allowed hv (hlazy ⟨k, .inl rfl⟩) hk)
    | inttil l =>
      cases hi
      exact State.finish_of_error (State.lazyTransform_of_not_allowed hv (hlazy ⟨k, .inr rfl⟩) hk)
    | _ => cases hi
  case fits =>
    have hle : k ≤ Config.lognMax := (State.lengthAllowed_iff.1 hk).2.trans hs.maxLog_le
    exact ⟨Nat.lt_succ_of_le hle, two_pow_le_nmax hle⟩

/-- Settles O28: the words looked at are those of the input set, and INTTI and INTTIL look at `NINV` besides. -/
theorem nonCanonicalVectorsAreRefused : Obligations.NonCanonicalVectorsAreRefused := by
  refine fun k s hv hk => ⟨fun hc => ⟨?ntti, ?nttr, fun hq hl => ?nttil⟩, fun hc => ?inttr,
    fun hc => ⟨?intti, fun hq hl => ?inttil⟩⟩
  case ntti | nttr => exact State.finish_of_error (State.forward_of_not_canonical hv hk hc)
  case nttil =>
    exact State.finish_of_error
      (State.lazyTransform_of_not_canonical hv hq hk (mt (State.canonical_lazyForwardInputs_iff hl).1 hc))
  case inttr => exact State.finish_of_error (State.inverse_of_not_canonical hv hk fun h => hc h.1)
  case intti =>
    exact State.finish_of_error
      (State.inverse_of_not_canonical hv hk (by rwa [State.canonical_singleton_iff]))
  case inttil =>
    exact State.finish_of_error
      (State.lazyTransform_of_not_canonical hv hq hk (mt (State.canonical_lazyInverseInputs_iff hl).1 hc))

/-- Settles O29: `project` inverts ω first, and every other check has passed. -/
theorem liftedInverseNeedsAnInvertibleLiftRoot : Obligations.LiftedInverseNeedsAnInvertibleLiftRoot :=
  fun _ _ hs hv hl hk hc hω =>
    ⟨State.finish_of_error (State.inverse_of_not_invertible hs hv hl hk hc rfl hω),
      fun hn => State.finish_of_error
        (State.inverse_of_not_invertible hs hv hl hk hc (State.canonical_singleton_iff.2 hn) hω)⟩

/-! ## What a transform writes -/

section
variable {s t : State} {k : Nat} {vs ws : List Nat}

/-- Two sequences written from the start of the buffers. -/
theorem State.wroteBuffers_setMemSeq (s : State) (vs ws : List Nat) :
    s.wroteBuffers ((s.setMemSeq .buf0 vs).setMemSeq .buf1 ws).complete vs.length ws.length := by
  refine ⟨rfl, fun a h0 h1 => ?_⟩
  unfold MemId.wordAddr at h0 h1
  exact (State.byteAt_setMemSeq_other _ .buf1 ws a (by omega)).trans (s.byteAt_setMemSeq_other .buf0 vs a (by omega))

theorem State.wroteBuffers_setMemSeq_buf0 (s : State) (vs : List Nat) :
    s.wroteBuffers (s.setMemSeq .buf0 vs).complete vs.length 0 := s.wroteBuffers_setMemSeq vs []

/-- Both sequences can be read back: the buffers are apart. -/
theorem State.holds_setMemSeq_buffers (s : State) (hv : vs.length ≤ Config.nmax) (hw : ws.length ≤ Config.nmax) :
    ((s.setMemSeq .buf0 vs).setMemSeq .buf1 ws).complete.holds .buf0 vs ∧
      ((s.setMemSeq .buf0 vs).setMemSeq .buf1 ws).complete.holds .buf1 ws :=
  ⟨((s.holds_setMemSeq .buf0 vs).setMemSeq_other (by decide) hv hw).complete, (State.holds_setMemSeq _ .buf1 ws).complete⟩

section
variable {net : {α : Type} → ElemOps α → (Nat → α) → Nat → List α → List α} {extra : List Word}

/-- A forward transform that passes its checks, direct. -/
theorem State.forward_writes_direct (hlen : KeepsLength net) (hv : s.cfgValid = true) (hl : s.lift = false)
    (hk : s.lengthAllowed k) (hc : s.forwardCanonical k) :
    ∃ t, s.finish (s.forward k net) = .next t ∧ s.wroteBuffers t (2 ^ k) 0 ∧
      (net (fpOps s.modulus) s.rootFp k (s.bufFp (2 ^ k))).length = 2 ^ k ∧
      t.holds .buf0 (net (fpOps s.modulus) s.rootFp k (s.bufFp (2 ^ k))) := by
  have hok := State.forward_ok (net := net).2 ⟨hv, State.lengthAllowed_iff.1 hk, State.canonical_forwardInputs_iff.2 hc, rfl⟩
  have hone := (State.lengthAllowed_iff.1 hk).one_le_logL
  have hsize := hlen (fpOps s.modulus) s.rootFp (by omega) (s.bufFp_length (2 ^ k))
  have hresult : s.forwardResult k net = s.setMemSeq .buf0 (net (fpOps s.modulus) s.rootFp k (s.bufFp (2 ^ k))) :=
    if_neg (by simp [hl])
  rw [hok, hresult]
  have hwrote := s.wroteBuffers_setMemSeq_buf0 (net (fpOps s.modulus) s.rootFp k (s.bufFp (2 ^ k)))
  rw [hsize] at hwrote
  exact ⟨_, rfl, hwrote, hsize, (s.holds_setMemSeq _ _).complete⟩

/-- A forward transform that passes its checks, lifted. -/
theorem State.forward_writes_lifted (hlen : KeepsLength net) (hs : s.Inv) (hv : s.cfgValid = true) (hl : s.lift = true)
    (hk : s.lengthAllowed k) (hc : s.forwardCanonical k) :
    ∃ t F, s.finish (s.forward k net) = .next t ∧ s.wroteBuffers t (2 ^ (k - 1)) (2 ^ (k - 1)) ∧
      F = net (fp2Ops s.modulus) s.rootFp2 (k - 1) (s.liftedBuf k) ∧ F.length = 2 ^ (k - 1) ∧
      t.holds .buf0 (F.map fun x => x.1) ∧ t.holds .buf1 (F.map fun x => x.2) := by
  have hok := State.forward_ok (net := net).2 ⟨hv, State.lengthAllowed_iff.1 hk, State.canonical_forwardInputs_iff.2 hc, rfl⟩
  have hone := (State.lengthAllowed_iff.1 hk).one_le_logL.1
  rw [State.logL_lifted hl] at hone
  have hsize : (net (fp2Ops s.modulus) s.rootFp2 (k - 1) (s.liftedBuf k)).length = 2 ^ (k - 1) :=
    hlen _ _ hone (s.liftedBuf_length k)
  have hresult : s.forwardResult k net = s.setBufFp2 (net (fp2Ops s.modulus) s.rootFp2 (k - 1) (s.liftedBuf k)) := by
    rw [State.liftedBuf, ← State.logL_lifted hl]
    exact if_pos hl
  generalize net (fp2Ops s.modulus) s.rootFp2 (k - 1) (s.liftedBuf k) = F at hsize hresult
  have hmax : F.length ≤ Config.nmax := by
    have := State.two_pow_lifted hl hk
    have := hk.two_pow_le_nmax hs
    omega
  have hwrote := s.wroteBuffers_setMemSeq (F.map fun x => x.1) (F.map fun x => x.2)
  rw [List.length_map, List.length_map, hsize] at hwrote
  rw [hok, hresult]
  exact ⟨_, F, rfl, hwrote, rfl, hsize, s.holds_setMemSeq_buffers (by rwa [List.length_map]) (by rwa [List.length_map])⟩

/-- An inverse transform that passes its checks, direct. -/
theorem State.inverse_writes_direct (hlen : KeepsLength net) (hv : s.cfgValid = true) (hl : s.lift = false)
    (hk : s.lengthAllowed k) (hc : s.inverseCanonical k) (hextra : s.canonical extra = true) :
    ∃ t, s.finish (s.inverse k extra net) = .next t ∧ s.wroteBuffers t (2 ^ k) 0 ∧
      (net (fpOps s.modulus) s.irootFp k (s.bufFp (2 ^ k))).length = 2 ^ k ∧
      t.holds .buf0 (net (fpOps s.modulus) s.irootFp k (s.bufFp (2 ^ k))) := by
  have hresult : s.inverseResult k net = .ok (s.setMemSeq .buf0 (net (fpOps s.modulus) s.irootFp k (s.bufFp (2 ^ k)))) :=
    if_neg (by simp [hl])
  have hok := State.inverse_ok (extra := extra).2 ⟨hv, State.lengthAllowed_iff.1 hk,
    State.canonical_append.2 ⟨State.canonical_inverseInputs_iff.2 hc, hextra⟩, hresult⟩
  have hone := (State.lengthAllowed_iff.1 hk).one_le_logL
  have hsize := hlen (fpOps s.modulus) s.irootFp (by omega) (s.bufFp_length (2 ^ k))
  have hwrote := s.wroteBuffers_setMemSeq_buf0 (net (fpOps s.modulus) s.irootFp k (s.bufFp (2 ^ k)))
  rw [hsize] at hwrote
  rw [hok]
  exact ⟨_, rfl, hwrote, hsize, (s.holds_setMemSeq _ _).complete⟩

/-- The upper half of the coefficients that `project` gives is the negation of its second components (R111). -/
theorem projectSeq_upper_half {F : Modulus} {ω : Fp2} {b : List Fp2} {c im : List Nat} (h : projectSeq F ω b = .ok (c, im)) :
    ∃ re, re.length = im.length ∧ c = re ++ im.map (fneg F) := by
  obtain ⟨wi, -, hr⟩ := bind_eq_ok.1 h
  cases hr
  exact ⟨(projectLoop F wi (1, 0) b).map fun x => x.1, by simp, by rw [List.map_map]; rfl⟩

/-- So the buffers hold it: `BUF1[i]` = fneg(`BUF0[i+L]`) (R113). -/
theorem State.buf1_eq_fneg_buf0 {re im : List Nat} {L : Nat} (h0 : t.holds .buf0 (re ++ im.map (fneg t.modulus)))
    (h1 : t.holds .buf1 im) (hc : ∀ v ∈ re ++ im.map (fneg t.modulus), v < t.q.toNat) (him : ∀ v ∈ im, v < t.q.toNat)
    (hre : re.length = im.length) (hL : im.length = L) :
    ∀ i, i < L → t.memNat .buf1 i = fneg t.modulus (t.memNat .buf0 (i + L)) := fun i hi => by
  subst hL
  have hupper : (re ++ im.map (fneg t.modulus))[i + im.length]'(by simp; omega) = fneg t.modulus im[i] := by
    rw [List.getElem_append_right (by omega), List.getElem_map]
    simp [hre]
  rw [h1.memNat him hi, h0.memNat hc (by simp; omega), hupper, fneg_fneg (him _ (List.getElem_mem _))]

/-- `project` succeeds by a canonical lift root of non-zero norm. -/
theorem projectSeq_of_invertible {F : Modulus} {ω : Fp2} (hF : F.Ok) (hq : F.q % 4 = 3) (hω : Fp2.Canon F ω)
    (hnorm : (ω.1 * ω.1 + ω.2 * ω.2) % F.q ≠ 0) (b : List Fp2) : ∃ c im, projectSeq F ω b = .ok (c, im) := by
  have hne : ω ≠ (0, 0) := by
    rintro rfl
    exact hnorm (Nat.zero_mod _)
  obtain ⟨wi, hwi, -⟩ := f2inv_spec hF hq hω hne
  exact ⟨_, _, bind_eq_ok.2 ⟨wi, hwi, rfl⟩⟩

/-- An inverse transform that passes its checks, lifted. -/
theorem State.inverse_writes_lifted (hlen : KeepsLength net) (hnet : NetClosed s.q.toNat net) (hs : s.Inv)
    (hv : s.cfgValid = true) (hl : s.lift = true) (hk : s.lengthAllowed k) (hc : s.inverseCanonical k)
    (hextra : s.canonical extra = true) (hω : s.liftRootInvertible) :
    ∃ t c im, s.finish (s.inverse k extra net) = .next t ∧ s.wroteBuffers t (2 ^ k) (2 ^ (k - 1)) ∧
      projectSeq s.modulus s.liftRoot (net (fp2Ops s.modulus) s.irootFp2 (k - 1) (s.bufFp2 (2 ^ (k - 1)))) = .ok (c, im) ∧
      c.length = 2 ^ k ∧ im.length = 2 ^ (k - 1) ∧ t.holds .buf0 c ∧ t.holds .buf1 im ∧
      ∀ i, i < 2 ^ (k - 1) → t.memNat .buf1 i = fneg s.modulus (t.memNat .buf0 (i + 2 ^ (k - 1))) := by
  have hF := hs.modulus_ok hv
  have hdouble := State.two_pow_lifted hl hk
  have hmax := hk.two_pow_le_nmax hs
  have hroot := State.liftRoot_canon hl hc
  have hone := (State.lengthAllowed_iff.1 hk).one_le_logL.1
  rw [State.logL_lifted hl] at hone
  obtain ⟨hbuf0, hbuf1, hiroot0, hiroot1, -⟩ := (State.inverseCanonical_lifted hl).1 hc
  have hsize : (net (fp2Ops s.modulus) s.irootFp2 (k - 1) (s.bufFp2 (2 ^ (k - 1)))).length = 2 ^ (k - 1) :=
    hlen _ _ hone (s.bufFp2_length _)
  have hclosed := hnet (fp2Ops_closed hF) (root := s.irootFp2) hone (s.bufFp2_length (2 ^ (k - 1)))
    (fun j h1 h2 => ⟨hiroot0 j h1 h2, hiroot1 j h1 h2⟩)
    (State.bufFp2_canon (State.canonical_bufWords_iff.2 hbuf0) (State.canonical_bufWords_iff.2 hbuf1))
  obtain ⟨c, im, hproject⟩ := projectSeq_of_invertible hF (hs.mod_four_of_lift hv hl) hroot hω
    (net (fp2Ops s.modulus) s.irootFp2 (k - 1) (s.bufFp2 (2 ^ (k - 1))))
  have hresult : s.inverseResult k net = .ok ((s.setMemSeq .buf0 c).setMemSeq .buf1 im) := by
    rw [← State.logL_lifted hl] at hproject
    exact (if_pos hl).trans (bind_eq_ok.2 ⟨(c, im), hproject, rfl⟩)
  have hok := State.inverse_ok (extra := extra).2 ⟨hv, State.lengthAllowed_iff.1 hk,
    State.canonical_append.2 ⟨State.canonical_inverseInputs_iff.2 hc, hextra⟩, hresult⟩
  obtain ⟨hc_len, him_len⟩ : c.length = 2 ^ k ∧ im.length = 2 ^ (k - 1) := by
    rw [hdouble, ← hsize]
    exact projectSeq_length hproject
  have hwrote := s.wroteBuffers_setMemSeq c im
  rw [hc_len, him_len] at hwrote
  obtain ⟨hholds0, hholds1⟩ := s.holds_setMemSeq_buffers (vs := c) (ws := im) (by omega) (by omega)
  rw [hok]
  refine ⟨_, c, im, rfl, hwrote, hproject, hc_len, him_len, hholds0, hholds1, ?_⟩
  obtain ⟨hc_lt, him_lt⟩ := projectSeq_lt hF hroot hclosed hproject
  obtain ⟨re, hre, rfl⟩ := projectSeq_upper_half hproject
  exact State.buf1_eq_fneg_buf0 hholds0 hholds1 hc_lt him_lt hre him_len

end
end

/-- Settles O44: both engines' networks keep the length of their sequence, and what they give is written as it is. -/
theorem forwardTransformsWriteTheirNetworks : Obligations.ForwardTransformsWriteTheirNetworks := fun _ _ hs hv hk hc =>
  ⟨fun hl => ⟨State.forward_writes_direct nttCore_keepsLength hv hl hk hc,
      State.forward_writes_direct nttRec_keepsLength hv hl hk hc⟩,
    fun hl => ⟨State.forward_writes_lifted nttCore_keepsLength hs hv hl hk hc,
      State.forward_writes_lifted nttRec_keepsLength hs hv hl hk hc⟩⟩

/-- Settles O45: as O44, with `NINV` an operand of INTTI alone; `project` has the inverse of ω that it asks for. -/
theorem inverseTransformsWriteTheirNetworks : Obligations.InverseTransformsWriteTheirNetworks := by
  intro s k hs hv hk hc
  have hinv2 := (hs.modulus_ok hv).inv2_lt
  refine ⟨fun hl => ⟨fun hn => ?inttiDirect, ?inttrDirect⟩, fun hl hω => ⟨fun hn => ?inttiLifted, ?inttrLifted⟩⟩
  case inttiDirect =>
    exact State.inverse_writes_direct (inttCore_keepsLength _) hv hl hk hc (State.canonical_singleton_iff.2 hn)
  case inttrDirect => exact State.inverse_writes_direct (inttRec_keepsLength _) hv hl hk hc rfl
  case inttiLifted =>
    exact State.inverse_writes_lifted (inttCore_keepsLength _) (inttCore_netClosed hn) hs hv hl hk hc
      (State.canonical_singleton_iff.2 hn) hω
  case inttrLifted =>
    exact State.inverse_writes_lifted (inttRec_keepsLength _) (inttRec_netClosed hinv2) hs hv hl hk hc rfl hω

/-- Settles O47: the two forward networks are one function. -/
theorem forwardEnginesEndInTheSameState : Obligations.ForwardEnginesEndInTheSameState := exec_nttr_eq_exec_ntti

end Sys2Proof.Machine
end

section
/-! The lazy path (`44_ntt_iterative.md` R114 to R117). Stage by stage the lazy network carries out the reduced one: at every
position it holds a number with the residue of the canonical value that stands there, below a bound that leaves room for the
next stage. The bounds are those of R117 (a) and (b), so no check fails, and the final reduction gives the canonical
values. -/

namespace Sys2Proof.Machine

/-! ## Lazy values -/

/-- The lazy value `x`, below `B`, stands for the canonical value `y` (R114). -/
structure StandsFor (F : Modulus) (B x y : Nat) : Prop where
  below : x < B
  canonical : y < F.q
  residue : (x : ZMod F.q) = y

section
variable {F : Modulus} {B x y z : Nat}

theorem StandsFor.mono {B' : Nat} (h : StandsFor F B x y) (hB : B ≤ B') : StandsFor F B' x y :=
  ⟨h.below.trans_le hB, h.canonical, h.residue⟩

theorem standsFor_self (hx : x < F.q) (hB : F.q ≤ B) : StandsFor F B x x := ⟨hx.trans_le hB, hx, rfl⟩

/-- Reduction gives the canonical value. -/
theorem StandsFor.mod_eq (h : StandsFor F B x y) : x % F.q = y := mod_eq_of_cast_eq h.canonical h.residue

/-- The reduction of a product with a canonical factor is `fmul`. -/
theorem StandsFor.mul_mod_eq (h : StandsFor F B x y) (hF : F.Ok) (hz : z < F.q) : x * z % F.q = fmul F y z := by
  refine mod_eq_of_cast_eq (fmul_lt hF.mers h.canonical hz) ?_
  rw [Nat.cast_mul, h.residue, fmul_cast hF.mers h.canonical hz]

end

/-! ## Bounds -/

/-- The bound before stage `l` of the forward network (R117 (a)). -/
def lazyFwdBound (l : Nat) : Nat := 2 ^ (15 * l + 14)

theorem lazyFwdBound_succ (l : Nat) : lazyFwdBound (l + 1) = 2 ^ 15 * lazyFwdBound l := by
  unfold lazyFwdBound
  ring

theorem lazyMultiple_eq (q l : Nat) : lazyMultiple q l = q * lazyFwdBound l := Nat.shiftLeft_eq _ _

/-- The bound before stage `l` of the inverse network is the multiple of the modulus itself (R117 (b)). -/
theorem lazyMultiple_succ (q l : Nat) : lazyMultiple q (l + 1) = 2 ^ 15 * lazyMultiple q l := by
  rw [lazyMultiple_eq, lazyMultiple_eq, lazyFwdBound_succ]
  ring

theorem lazyMultiple_cast (q l : Nat) : (lazyMultiple q l : ZMod q) = 0 := by simp [lazyMultiple_eq]

theorem lazyFits_of_lt {v e : Nat} (hv : v < 2 ^ e) (he : e ≤ Config.lazyBits) : lazyFits v = true :=
  decide_eq_true (hv.trans_le (Nat.pow_le_pow_right two_pos he))

theorem lazyFits_of_lt_fwdBound {v l : Nat} (hv : v < lazyFwdBound l) (hl : l ≤ Config.lognMax) : lazyFits v = true :=
  lazyFits_of_lt hv (by unfold Config.lognMax at hl; unfold Config.lazyBits; omega)

theorem lazyMultiple_lt {q l : Nat} (hq : q < 2 ^ 14) (hl : l ≤ Config.lognMax) : lazyMultiple q l < 2 ^ 193 := by
  have hbound : lazyFwdBound l ≤ 2 ^ 179 := Nat.pow_le_pow_right two_pos (by unfold Config.lognMax at hl; omega)
  calc lazyMultiple q l = q * lazyFwdBound l := lazyMultiple_eq q l
    _ < 2 ^ 14 * 2 ^ 179 := Nat.mul_lt_mul_of_lt_of_le hq hbound (by positivity)
    _ = 2 ^ 193 := by norm_num

/-! ## Sequences in step -/

/-- In the middle of a stage: `R'` relates the sequences at every position, and `R` still does at the positions that the
stage has not touched. -/
structure MidStage (R R' : Nat → Nat → Prop) (untouched : Nat → Prop) (a c : List Nat) : Prop where
  length : a.length = c.length
  before : ∀ j, untouched j → R (a.getD j 0) (c.getD j 0)
  all : ∀ j, R' (a.getD j 0) (c.getD j 0)

/-- The butterfly `lb`, which may fail a check, does in step with `b`: from values related by `R` it leaves values related
by `R'`. -/
def InStep (R R' : Nat → Nat → Prop) (lb : Nat → Nat → List Nat → Except CmdError (List Nat))
    (b : Nat → Nat → List Nat → List Nat) : Prop :=
  ∀ t j a c, R (a.getD j 0) (c.getD j 0) → R (a.getD (j + t) 0) (c.getD (j + t) 0) →
    ∃ x y x' y', lb t j a = .ok ((a.set j x).set (j + t) y) ∧ b t j c = (c.set j x').set (j + t) y' ∧ R' x x' ∧ R' y y'

/-- Two loops keep a relation that counts their turns. -/
theorem foldlM_range_inStep {I : Nat → List Nat → List Nat → Prop} {f : List Nat → Nat → Except CmdError (List Nat)}
    {g : List Nat → Nat → List Nat} {n : Nat}
    (hstep : ∀ i < n, ∀ a c, I i a c → ∃ a', f a i = .ok a' ∧ I (i + 1) a' (g c i))
    {a c : List Nat} (h : I 0 a c) :
    ∃ a', (List.range n).foldlM f a = .ok a' ∧ I n a' ((List.range n).foldl g c) := by
  induction n with
  | zero => exact ⟨a, rfl, h⟩
  | succ n ih =>
    obtain ⟨b, hb, hIb⟩ := ih fun i hi => hstep i (by omega)
    obtain ⟨a', ha', hIa'⟩ := hstep n (by omega) _ _ hIb
    refine ⟨a', ?_, ?_⟩
    · rw [List.range_succ, List.foldlM_append, bind_eq_ok]
      exact ⟨b, hb, by rw [List.foldlM_cons, ha']; rfl⟩
    · rwa [List.range_succ, List.foldl_append, List.foldl_cons, List.foldl_nil]

section
variable {R R' : Nat → Nat → Prop} {untouched : Nat → Prop} {a c : List Nat}

theorem getD_set_eq (a : List Nat) (i j x : Nat) :
    (a.set i x).getD j 0 = if i = j ∧ j < a.length then x else a.getD j 0 := by
  simp only [List.getD_eq_getElem?_getD, List.getElem?_set]
  by_cases hij : i = j
  · subst hij
    by_cases hi : i < a.length
    · simp [hi]
    · simp [hi]
  · simp [hij]

theorem MidStage.mono {untouched' : Nat → Prop} (h : MidStage R R' untouched a c) (hu : ∀ j, untouched' j → untouched j) :
    MidStage R R' untouched' a c := ⟨h.length, fun j hj => h.before j (hu j hj), h.all⟩

/-- A write of related values touches one position. -/
theorem MidStage.set (h : MidStage R R' untouched a c) (i : Nat) {x y : Nat} (hxy : R' x y) :
    MidStage R R' (fun j => untouched j ∧ j ≠ i) (a.set i x) (c.set i y) where
  length := by simpa using h.length
  before j hj := by
    rw [getD_set_eq, getD_set_eq, if_neg fun e => hj.2 e.1.symm, if_neg fun e => hj.2 e.1.symm]
    exact h.before j hj.1
  all j := by
    rw [getD_set_eq, getD_set_eq, h.length]
    split
    case isTrue => exact hxy
    case isFalse => exact h.all j

section
variable {lb : Nat → Nat → List Nat → Except CmdError (List Nat)} {b : Nat → Nat → List Nat → List Nat}

/-- A group touches its 2t positions, and each once. -/
theorem InStep.group (hb : InStep R R' lb b) {t start : Nat} (h : MidStage R R' (fun j => start ≤ j) a c) :
    ∃ a', (List.range t).foldlM (fun a r => lb t (start + r) a) a = .ok a' ∧
      MidStage R R' (fun j => start + 2 * t ≤ j) a' ((List.range t).foldl (fun c r => b t (start + r) c) c) := by
  have hloop := foldlM_range_inStep
    (I := fun r => MidStage R R' fun j => (start + r ≤ j ∧ j < start + t) ∨ start + t + r ≤ j)
    (f := fun a r => lb t (start + r) a) (g := fun c r => b t (start + r) c) (n := t) ?turn
    (h.mono (by omega))
  case turn =>
    intro r hr a c h
    obtain ⟨x, y, x', y', ha, hc, hx, hy⟩ := hb t (start + r) a c (h.before _ (by omega)) (h.before _ (by omega))
    refine ⟨_, ha, ?_⟩
    rw [hc]
    exact ((h.set _ hx).set _ hy).mono (by omega)
  obtain ⟨a', ha', h'⟩ := hloop
  exact ⟨a', ha', h'.mono (by omega)⟩

end

/-- A stage leaves every position related by `R'`: no butterfly meets a position that another one has touched. -/
theorem stage_inStep {lb : Nat → Nat → Nat → List Nat → Except CmdError (List Nat)}
    {b : Nat → Nat → Nat → List Nat → List Nat} {root : Nat → Nat} {m : Nat}
    (hb : ∀ i < m, InStep R R' (lb (root (m + i))) (b (root (m + i)))) (hR : ∀ {x y}, R x y → R' x y) (t : Nat)
    (hlen : a.length = c.length) (h : ∀ j, R (a.getD j 0) (c.getD j 0)) :
    ∃ a', (List.range m).foldlM (fun a i => (List.range t).foldlM (fun a r => lb (root (m + i)) t (2 * i * t + r) a) a) a
        = .ok a' ∧
      a'.length = (inPlaceStage b root m t c).length ∧
      ∀ j, R' (a'.getD j 0) ((inPlaceStage b root m t c).getD j 0) := by
  have hloop := foldlM_range_inStep (I := fun i => MidStage R R' fun j => 2 * i * t ≤ j)
    (f := fun a i => (List.range t).foldlM (fun a r => lb (root (m + i)) t (2 * i * t + r) a) a)
    (g := fun c i => (List.range t).foldl (fun c r => b (root (m + i)) t (2 * i * t + r) c) c) (n := m) ?turn
    (a := a) (c := c) ⟨hlen, fun j _ => h j, fun j => hR (h j)⟩
  case turn =>
    intro i hi a c h
    have hnext : 2 * (i + 1) * t = 2 * i * t + 2 * t := by ring
    rw [hnext]
    exact (hb i hi).group h
  obtain ⟨a', ha', h'⟩ := hloop
  exact ⟨a', ha', h'.length, h'.all⟩

end

/-! ## The two butterflies -/

section
variable {KQ S t j : Nat} {a : List Nat}

theorem lazyFwdButterfly_of_fits (hle : a.getD (j + t) 0 * S ≤ KQ)
    (hadd : lazyFits (a.getD j 0 + a.getD (j + t) 0 * S) = true)
    (hsub : lazyFits (a.getD j 0 + (KQ - a.getD (j + t) 0 * S)) = true) :
    lazyFwdButterfly KQ S t j a = .ok ((a.set j (a.getD j 0 + a.getD (j + t) 0 * S)).set (j + t)
      (a.getD j 0 + (KQ - a.getD (j + t) 0 * S))) :=
  (if_neg hle.not_gt).trans (if_pos (by rw [hadd, hsub]; rfl))

theorem lazyInvButterfly_of_fits (hle : a.getD (j + t) 0 ≤ KQ) (hadd : lazyFits (a.getD j 0 + a.getD (j + t) 0) = true)
    (hmul : lazyFits ((a.getD j 0 + (KQ - a.getD (j + t) 0)) * S) = true) :
    lazyInvButterfly KQ S t j a = .ok ((a.set j (a.getD j 0 + a.getD (j + t) 0)).set (j + t)
      ((a.getD j 0 + (KQ - a.getD (j + t) 0)) * S)) :=
  (if_neg hle.not_gt).trans (if_pos (by rw [hadd, hmul]; rfl))

end

section
variable {F : Modulus} {S l : Nat}

/-- R117 (a), one butterfly. -/
theorem lazyFwdButterfly_inStep (hF : F.Ok) (hq : F.q < 2 ^ 14) (hS : S < F.q) (hl : l < Config.lognMax) :
    InStep (StandsFor F (lazyFwdBound l)) (StandsFor F (lazyFwdBound (l + 1))) (lazyFwdButterfly (lazyMultiple F.q l) S)
      (fwdButterfly (fpOps F) S) := by
  intro t j a c hU hV
  have hsucc := lazyFwdBound_succ l
  have hKQ := lazyMultiple_eq F.q l
  have hmul := fmul_lt hF.mers hV.canonical hS
  have hprod : a.getD (j + t) 0 * S ≤ lazyMultiple F.q l := by
    rw [hKQ, mul_comm F.q]
    exact Nat.mul_le_mul hV.below.le hS.le
  have hroom : lazyMultiple F.q l ≤ 2 ^ 14 * lazyFwdBound l := hKQ ▸ Nat.mul_le_mul_right _ hq.le
  have hU' := hU.below
  have hadd : a.getD j 0 + a.getD (j + t) 0 * S < lazyFwdBound (l + 1) := by omega
  have hsub : a.getD j 0 + (lazyMultiple F.q l - a.getD (j + t) 0 * S) < lazyFwdBound (l + 1) := by omega
  refine ⟨_, _, _, _, lazyFwdButterfly_of_fits hprod (lazyFits_of_lt_fwdBound hadd hl) (lazyFits_of_lt_fwdBound hsub hl), rfl,
    ⟨hadd, fadd_lt hU.canonical hmul, ?_⟩, ⟨hsub, fsub_lt hU.canonical hmul, ?_⟩⟩
  · rw [Nat.cast_add, Nat.cast_mul, hU.residue, hV.residue]
    exact ((fadd_cast hU.canonical hmul).trans (by rw [fmul_cast hF.mers hV.canonical hS])).symm
  · rw [Nat.cast_add, Nat.cast_sub hprod, lazyMultiple_cast, Nat.cast_mul, hU.residue, hV.residue, zero_sub, ← sub_eq_add_neg]
    exact ((fsub_cast hU.canonical hmul).trans (by rw [fmul_cast hF.mers hV.canonical hS])).symm

/-- R117 (b), one butterfly. -/
theorem lazyInvButterfly_inStep (hF : F.Ok) (hq : F.q < 2 ^ 14) (hS : S < F.q) (hl : l < Config.lognMax) :
    InStep (StandsFor F (lazyMultiple F.q l)) (StandsFor F (lazyMultiple F.q (l + 1)))
      (lazyInvButterfly (lazyMultiple F.q l) S) (invButterfly (fpOps F) S) := by
  intro t j a c hU hV
  have hsucc := lazyMultiple_succ F.q l
  have hdiff := fsub_lt hU.canonical hV.canonical
  have hU' := hU.below
  have hV' := hV.below.le
  have hadd : a.getD j 0 + a.getD (j + t) 0 < lazyMultiple F.q (l + 1) := by omega
  have hsub : a.getD j 0 + (lazyMultiple F.q l - a.getD (j + t) 0) < 2 * lazyMultiple F.q l := by omega
  have hmul : (a.getD j 0 + (lazyMultiple F.q l - a.getD (j + t) 0)) * S < lazyMultiple F.q (l + 1) := by
    calc _ < 2 * lazyMultiple F.q l * 2 ^ 14 := Nat.mul_lt_mul_of_lt_of_le hsub (hS.trans hq).le (by positivity)
      _ = lazyMultiple F.q (l + 1) := by rw [hsucc]; ring
  have hfits {v : Nat} (hv : v < lazyMultiple F.q (l + 1)) : lazyFits v = true :=
    lazyFits_of_lt (hv.trans (lazyMultiple_lt hq hl)) (by decide)
  refine ⟨_, _, _, _, lazyInvButterfly_of_fits hV' (hfits hadd) (hfits hmul), rfl,
    ⟨hadd, fadd_lt hU.canonical hV.canonical, ?_⟩, ⟨hmul, fmul_lt hF.mers hdiff hS, ?_⟩⟩
  · rw [Nat.cast_add, hU.residue, hV.residue]
    exact (fadd_cast hU.canonical hV.canonical).symm
  · rw [Nat.cast_mul, Nat.cast_add, Nat.cast_sub hV', lazyMultiple_cast, hU.residue, hV.residue, zero_sub, ← sub_eq_add_neg]
    exact ((fmul_cast hF.mers hdiff hS).trans (by rw [fsub_cast hU.canonical hV.canonical])).symm

end

/-! ## The two networks -/

section
variable {F : Modulus} {root : Nat → Nat} {a c : List Nat} {k l : Nat}

/-- R117 (a): the stages of the forward network. -/
theorem lazyFwdStages_inStep (hF : F.Ok) (hq : F.q < 2 ^ 14) {t m : Nat} (hl : l + k ≤ Config.lognMax) (hm : 1 ≤ m)
    (hroot : ∀ j, 1 ≤ j → j < m * 2 ^ k → root j < F.q) (hlen : a.length = c.length)
    (h : ∀ j, StandsFor F (lazyFwdBound l) (a.getD j 0) (c.getD j 0)) :
    ∃ a', lazyFwdStages F.q root k t m l a = .ok a' ∧ a'.length = (fwdStages (fpOps F) root k t m c).length ∧
      ∀ j, StandsFor F (lazyFwdBound (l + k)) (a'.getD j 0) ((fwdStages (fpOps F) root k t m c).getD j 0) := by
  induction k generalizing t m l a c with
  | zero => exact ⟨a, rfl, hlen, h⟩
  | succ k ih =>
    have hnext : 2 * m * 2 ^ k = m * 2 ^ (k + 1) := by ring
    have hle : 2 * m ≤ 2 * m * 2 ^ k := Nat.le_mul_of_pos_right _ (by positivity)
    have hstage := stage_inStep (R := StandsFor F (lazyFwdBound l)) (R' := StandsFor F (lazyFwdBound (l + 1)))
      (lb := lazyFwdButterfly (lazyMultiple F.q l)) (b := fwdButterfly (fpOps F)) (root := root) (m := m)
      (fun i hi => lazyFwdButterfly_inStep hF hq (hroot _ (by omega) (by omega)) (by omega))
      (fun h => h.mono (by rw [lazyFwdBound_succ]; omega)) (t / 2) hlen h
    obtain ⟨b, hb, hblen, hbrel⟩ := hstage
    obtain ⟨a', ha', hrest⟩ := ih (t := t / 2) (m := 2 * m) (l := l + 1) (by omega) (by omega) (hnext ▸ hroot) hblen hbrel
    have hl' : l + 1 + k = l + (k + 1) := by ring
    exact ⟨a', bind_eq_ok.2 ⟨b, hb, ha'⟩, hl' ▸ hrest⟩

/-- R117 (b): the stages of the inverse network. -/
theorem lazyInvStages_inStep (hF : F.Ok) (hq : F.q < 2 ^ 14) {t : Nat} (hl : l + k ≤ Config.lognMax)
    (hroot : ∀ j, 1 ≤ j → j < 2 ^ k → root j < F.q) (hlen : a.length = c.length)
    (h : ∀ j, StandsFor F (lazyMultiple F.q l) (a.getD j 0) (c.getD j 0)) :
    ∃ a', lazyInvStages F.q root k t (2 ^ k) l a = .ok a' ∧
      a'.length = (invStages (fpOps F) root k t (2 ^ k) c).length ∧
      ∀ j, StandsFor F (lazyMultiple F.q (l + k)) (a'.getD j 0) ((invStages (fpOps F) root k t (2 ^ k) c).getD j 0) := by
  induction k generalizing t l a c with
  | zero => exact ⟨a, rfl, hlen, h⟩
  | succ k ih =>
    have hpos : 0 < 2 ^ k := by positivity
    have htwo : 2 ^ (k + 1) = 2 * 2 ^ k := pow_succ' 2 k
    have hhalf : 2 ^ (k + 1) / 2 = 2 ^ k := by omega
    have hstage := stage_inStep (R := StandsFor F (lazyMultiple F.q l)) (R' := StandsFor F (lazyMultiple F.q (l + 1)))
      (lb := lazyInvButterfly (lazyMultiple F.q l)) (b := invButterfly (fpOps F)) (root := root) (m := 2 ^ k)
      (fun i hi => lazyInvButterfly_inStep hF hq (hroot _ (by omega) (by omega)) (by omega))
      (fun h => h.mono (by rw [lazyMultiple_succ]; omega)) t hlen h
    obtain ⟨b, hb, hblen, hbrel⟩ := hstage
    obtain ⟨a', ha', hrest⟩ := ih (t := 2 * t) (l := l + 1) (by omega) (fun j h1 h2 => hroot j h1 (by omega)) hblen hbrel
    have hl' : l + 1 + k = l + (k + 1) := by ring
    rw [lazyInvStages, invStages, hhalf]
    exact ⟨a', bind_eq_ok.2 ⟨b, hb, ha'⟩, hl' ▸ hrest⟩

/-- Sequences in step, brought to canonical values one by one. -/
theorem map_eq_map_of_standsFor {B : Nat} {f g : Nat → Nat} (hfg : ∀ {x y}, StandsFor F B x y → f x = g y)
    (hlen : a.length = c.length) (h : ∀ j, StandsFor F B (a.getD j 0) (c.getD j 0)) : a.map f = c.map g := by
  refine List.ext_getElem (by simpa using hlen) fun j h1 h2 => ?_
  rw [List.length_map] at h1 h2
  have hj := h j
  rw [List.getD_eq_getElem _ _ h1, List.getD_eq_getElem _ _ h2] at hj
  rw [List.getElem_map, List.getElem_map, hfg hj]

theorem standsFor_canonical {B : Nat} (hF : F.Ok) (hB : F.q ≤ B) (ha : ∀ v ∈ a, v < F.q) (j : Nat) :
    StandsFor F B (a.getD j 0) (a.getD j 0) :=
  standsFor_self (forall_mem_getD (P := fun v => v < F.q) hF.prime.pos ha j) hB

/-- R117 (c), forward. -/
theorem lazyFwd_eq_nttCore (hF : F.Ok) (hq : F.q < 2 ^ 14) (hk : k ≤ Config.lognMax)
    (hroot : ∀ j, 1 ≤ j → j < 2 ^ k → root j < F.q) (ha : ∀ v ∈ a, v < F.q) :
    lazyFwd F.q root k a = .ok (nttCore (fpOps F) root k a) := by
  obtain ⟨b, hb, hlen, hrel⟩ := lazyFwdStages_inStep (root := root) (k := k) (l := 0) (t := 2 ^ k) (m := 1) hF hq (by omega)
    le_rfl (by simpa using hroot) rfl (standsFor_canonical hF hq.le ha)
  refine bind_eq_ok.2 ⟨b, hb, congrArg Except.ok ?_⟩
  rw [map_eq_map_of_standsFor (g := id) (fun h => h.mod_eq) hlen hrel, List.map_id]
  rfl

theorem lazyScaleAll_eq {q ninv : Nat} (h : ∀ v ∈ a, lazyFits (v * ninv) = true) :
    lazyScaleAll q ninv a = .ok (a.map fun v => v * ninv % q) := by
  induction a with
  | nil => rfl
  | cons v vs ih =>
    rw [List.forall_mem_cons] at h
    rw [lazyScaleAll, lazyScale, if_pos h.1, ih h.2]
    rfl

/-- R117 (c), inverse. -/
theorem lazyInv_eq_inttCore {ninv : Nat} (hF : F.Ok) (hq : F.q < 2 ^ 14) (hk : k ≤ Config.lognMax) (hninv : ninv < F.q)
    (hroot : ∀ j, 1 ≤ j → j < 2 ^ k → root j < F.q) (ha : ∀ v ∈ a, v < F.q) :
    lazyInv F.q ninv root k a = .ok (inttCore ninv (fpOps F) root k a) := by
  have hq0 : F.q ≤ lazyMultiple F.q 0 := by
    rw [lazyMultiple_eq]
    exact Nat.le_mul_of_pos_right _ (by decide)
  obtain ⟨b, hb, hlen, hrel⟩ := lazyInvStages_inStep (root := root) (k := k) (l := 0) (t := 1) hF hq (by omega) hroot rfl
    (standsFor_canonical hF hq0 ha)
  rw [zero_add] at hrel
  have hfits : ∀ v ∈ b, lazyFits (v * ninv) = true := fun v hv => by
    obtain ⟨j, hj, rfl⟩ := List.mem_iff_getElem.1 hv
    have hv := (hrel j).below.trans (lazyMultiple_lt hq hk)
    rw [List.getD_eq_getElem _ _ hj] at hv
    have hprod : b[j] * ninv < 2 ^ 193 * 2 ^ 14 := Nat.mul_lt_mul_of_lt_of_le hv (hninv.trans hq).le (by positivity)
    exact lazyFits_of_lt (hprod.trans_eq (pow_add 2 193 14).symm) (by decide)
  refine bind_eq_ok.2 ⟨b, hb, ?_⟩
  rw [lazyScaleAll_eq hfits, map_eq_map_of_standsFor (fun h => h.mul_mod_eq hF hninv) hlen hrel]
  rfl

end

/-! ## The lazy commands -/

section
variable {s : State} {k : Nat}

/-- What the checks of a lazy transform leave: the direct configuration of a field with Q = 12289. -/
theorem State.Inv.lazy_config (hs : s.Inv) (hv : s.cfgValid = true) (hq : s.q.toNat = 12289) :
    s.modulus.Ok ∧ s.modulus.q < 2 ^ 14 ∧ s.lift = false := by
  refine ⟨hs.modulus_ok hv, ?_, by simpa using hs.not_lift_of_lazy hv hq⟩
  change s.q.toNat < 2 ^ 14
  omega

/-- At Q = 12289 a lazy transform makes the checks of a reduced one. -/
theorem State.lazyTransform_of_lazyQ (hq : s.q.toNat = Config.lazyQ) (inputs : List Word)
    (net : List Nat → Except CmdError (List Nat)) :
    s.lazyTransform k inputs net = (s.requireConfigured >>= fun _ => s.requireLength k >>= fun _ =>
      s.requireCanonical inputs >>= fun _ => net (s.bufFp (2 ^ k)) >>= fun c => .ok (s.setMemSeq .buf0 c)) := by
  rw [State.lazyTransform, State.requireLazyModulus_ok (u := ()).2 hq]
  rfl

/-- R120 (3), forward. -/
theorem exec_nttil_eq_exec_ntti (hs : s.Inv) (hq : s.q.toNat = 12289) (k : Nat) : exec (.nttil k) s = exec (.ntti k) s := by
  change s.finish (s.lazyTransform k (s.lazyForwardInputs k) (lazyFwd s.q.toNat s.rootFp k)) = s.finish (s.forward k nttCore)
  rw [State.lazyTransform_of_lazyQ hq]
  refine congrArg s.finish (bind_congr_of_ok fun _ hv => bind_congr_of_ok fun _ hk => ?_)
  obtain ⟨hF, hsmall, hl⟩ := hs.lazy_config (State.requireConfigured_ok.1 hv) hq
  rw [State.lazyForwardInputs_eq hl]
  refine bind_congr_of_ok fun _ hc => ?_
  obtain ⟨hbuf, hroot⟩ := (State.forwardCanonical_direct hl).1
    (State.canonical_forwardInputs_iff.1 (State.requireCanonical_ok.1 hc))
  have hnet : lazyFwd s.q.toNat s.rootFp k (s.bufFp (2 ^ k)) = .ok (s.directNet k) :=
    lazyFwd_eq_nttCore hF hsmall ((State.requireLength_ok.1 hk).2.trans hs.maxLog_le) hroot
      (State.bufFp_lt (State.canonical_bufWords_iff.2 hbuf))
  rw [hnet, State.forwardResult, if_neg (by simp [hl])]
  rfl

/-- R120 (3), inverse. -/
theorem exec_inttil_eq_exec_intti (hs : s.Inv) (hq : s.q.toNat = 12289) (k : Nat) :
    exec (.inttil k) s = exec (.intti k) s := by
  change s.finish (s.lazyTransform k (s.lazyInverseInputs k) (lazyInv s.q.toNat s.ninv.toNat s.irootFp k)) =
    s.finish (s.inverse k [s.ninv] (inttCore s.ninv.toNat))
  rw [State.lazyTransform_of_lazyQ hq]
  refine congrArg s.finish (bind_congr_of_ok fun _ hv => bind_congr_of_ok fun _ hk => ?_)
  obtain ⟨hF, hsmall, hl⟩ := hs.lazy_config (State.requireConfigured_ok.1 hv) hq
  rw [State.lazyInverseInputs_eq hl]
  refine bind_congr_of_ok fun _ hc => ?_
  obtain ⟨hinputs, hninv⟩ := State.canonical_append.1 (State.requireCanonical_ok.1 hc)
  obtain ⟨hbuf, hroot⟩ := (State.inverseCanonical_direct hl).1 (State.canonical_inverseInputs_iff.1 hinputs)
  have hnet : lazyInv s.q.toNat s.ninv.toNat s.irootFp k (s.bufFp (2 ^ k)) =
      .ok (inttCore s.ninv.toNat (fpOps s.modulus) s.irootFp k (s.bufFp (2 ^ k))) :=
    lazyInv_eq_inttCore hF hsmall ((State.requireLength_ok.1 hk).2.trans hs.maxLog_le)
      (State.canonical_singleton_iff.1 hninv) hroot (State.bufFp_lt (State.canonical_bufWords_iff.2 hbuf))
  rw [hnet, State.inverseResult, if_neg (by simp [hl])]
  rfl

end

/-- Settles O49: both end in the same error or, the lazy network being the reduced one, in the same buffer. -/
theorem lazyPathIsIndistinguishable : Obligations.LazyPathIsIndistinguishable := fun _ k hs hq =>
  ⟨exec_nttil_eq_exec_ntti hs hq k, exec_inttil_eq_exec_intti hs hq k⟩

/-- Settles O46: the lazy commands complete as the reduced ones do, in the direct configuration. -/
theorem lazyTransformsCompleteAndAgreeWithTheReducedNetworks :
    Obligations.LazyTransformsCompleteAndAgreeWithTheReducedNetworks := by
  intro s k hs hv hq hk
  obtain ⟨-, -, hl⟩ := hs.lazy_config hv hq
  refine ⟨fun hc => ?forward, fun hc hn => ?inverse⟩
  case forward =>
    obtain ⟨t, ht, hwrote, -, hholds⟩ := State.forward_writes_direct nttCore_keepsLength hv hl hk hc
    exact ⟨t, (exec_nttil_eq_exec_ntti hs hq k).trans ht, hwrote, hholds⟩
  case inverse =>
    obtain ⟨t, ht, hwrote, -, hholds⟩ := State.inverse_writes_direct (inttCore_keepsLength _) hv hl hk hc
      (State.canonical_singleton_iff.2 hn)
    exact ⟨t, (exec_inttil_eq_exec_intti hs hq k).trans ht, hwrote, hholds⟩

end Sys2Proof.Machine
end

section
/-! The step functions of the recursive engine (`45_ntt_recursive.md` R121 to R123): `split_ntt` undoes `merge_ntt` over any
elements that stand for those of a ring of characteristic q, since it does so over the ring. -/

namespace Sys2Proof.Machine

section
variable {α R : Type} [CommRing R] {F : Modulus} {K : ElemOps α} {P : α → Prop} {φ : α → R} {root iroot : Nat → α}
  {F0 F1 : List α}

/-- With inverse table entries `split_ntt` undoes `merge_ntt`: its elements are canonical, and their residues are those that
the ring's `split_ntt` gives. -/
theorem splitNtt_mergeNtt (hF : F.Ok) (hK : K.Residues F.q P φ) (hlen : F0.length = F1.length) (hF0 : ∀ x ∈ F0, P x)
    (hF1 : ∀ x ∈ F1, P x) (hroot : ∀ i, i < F0.length → P (root (F0.length + i)))
    (hiroot : ∀ i, i < F0.length → P (iroot (F0.length + i)))
    (hinv : ∀ i, i < F0.length → φ (root (F0.length + i)) * φ (iroot (F0.length + i)) = 1) :
    splitNtt F.inv2 K iroot (mergeNtt K root F0 F1) = (F0, F1) := by
  have hhalf : (mergeNtt K root F0 F1).length / 2 = F0.length := by rw [mergeNtt_length root hlen]; omega
  have hmerged : ∀ x ∈ mergeNtt K root F0 F1, P x :=
    mergeNttFrom_closed hK.hom.closed (fun j _ hj => hroot j (by omega)) hF0 hF1
  have hentry : ∀ j, 0 ≤ j → j < 0 + (mergeNtt K root F0 F1).length / 2 → P (iroot (F0.length + j)) := fun j _ hj =>
    hiroot j (by omega)
  obtain ⟨hfst, hsnd⟩ := splitNttFrom_closed hK.hom.closed hF.inv2_lt hentry hmerged
  have hmap := hK.hom.map_splitNttFrom hF.inv2_lt hentry hmerged
  have hring : splitNttFrom F.inv2 (ringOps R) (φ ∘ iroot) F0.length 0 ((mergeNtt K root F0 F1).map φ) =
      (F0.map φ, F1.map φ) := by
    rw [mergeNtt, hK.hom.map_mergeNttFrom (fun j _ hj => hroot j (by omega)) hF0 hF1]
    exact splitNttFrom_mergeNttFrom (two_mul_inv2_of_char hF hK.char) (by simpa using hlen) fun j _ hj =>
      hinv j (by simpa using hj)
  rw [hring, Prod.mk.injEq] at hmap
  rw [splitNtt, hhalf]
  exact Prod.ext (eq_of_map_eq hK.inj hfst hF0 hmap.1.symm) (eq_of_map_eq hK.inj hsnd hF1 hmap.2.symm)

end

/-- Settles O55: the second and third clause are one fact about elements with residues, at K = Fp and at K = Fp2. -/
theorem recursiveStepsUndoEachOther : Obligations.RecursiveStepsUndoEachOther := by
  refine ⟨fun _ _ hf => mergeSeq_evens_odds hf, fun F root iroot F0 F1 hF hlen hF0 hF1 htable => ?direct,
    fun F root iroot F0 F1 hF hlen hF0 hF1 htable => ?lifted⟩
  case direct =>
    simp only [forall_and] at htable
    obtain ⟨hroot, hiroot, hmul⟩ := htable
    exact splitNtt_mergeNtt hF (fpOps_residues hF) hlen hF0 hF1 hroot hiroot fun i hi => by
      exact_mod_cast cast_eq_of_mod_eq (ZMod.natCast_self F.q) (hmul i hi)
  case lifted =>
    refine splitNtt_mergeNtt hF (fp2Ops_residues hF) hlen hF0 hF1 (fun i hi => ?_) (fun i hi => ?_)
      fun i hi => (htable i hi).residue hF
    · exact (htable i hi).1
    · exact (htable i hi).2.1

end Sys2Proof.Machine
end

section
/-! The errors of `60_exceptions.md`: the check that comes before every other of a command (R132), and what a command that
raises an error leaves of the state (R134). -/

namespace Sys2Proof.Machine

/-! ## The configuration -/

/-- Whatever else a command checks and computes, it asks for the configuration first; NOP, SETMOD and CLRERR do not. -/
theorem exec_eq_finish_requireConfigured (i : Instr) (s : State) (hnop : i ≠ .nop) (hsetmod : i ≠ .setmod)
    (hclrerr : i ≠ .clrerr) : ∃ rest, exec i s = s.finish (s.requireConfigured >>= rest) := by
  cases i with
  | nop => exact absurd rfl hnop
  | setmod => exact absurd rfl hsetmod
  | clrerr => exact absurd rfl hclrerr
  | _ => exact ⟨_, rfl⟩

/-- Settles O24: the check of the configuration, the first of each of these commands, fails. -/
theorem commandsNeedAConfiguredModulus : Obligations.CommandsNeedAConfiguredModulus := by
  intro i s hnop hsetmod hclrerr hv
  obtain ⟨rest, hexec⟩ := exec_eq_finish_requireConfigured i s hnop hsetmod hclrerr
  have hcheck : s.requireConfigured = .error .unsupportedModulus :=
    State.requireConfigured_error.2 ⟨by simp [hv], rfl⟩
  exact hexec.trans (State.finish_of_error (bind_eq_error.2 (.inl hcheck)))

/-! ## Precise errors -/

/-- Where no error is latched, only error entry ends with one: data, a configuration and CLRERR leave ERR at 0. -/
theorem State.Completes.eq_enterError {s t : State} (h : s.Completes t) (hs : s.err = false) (ht : t.err = true) :
    ∃ e, t = s.enterError e := by
  cases h with
  | error e => exact ⟨e, rfl⟩
  | data u hu =>
    have herr : u.err = s.err := by rw [hu.frame]
    simp [herr, hs] at ht
  | config e _ => simp [hs] at ht
  | cleared => simp at ht

/-- Error entry after acceptance, against the state before the write to `CMD`: acceptance set BUSY and error entry clears
it, and the word is in `CMDLATCH` and in ERRINFO. -/
theorem State.enterError_accept {s : State} (hb : s.busy = false) (w : Word) (e : CmdError) :
    (s.accept w).enterError e =
      { s with cmdLatch := w, done := false, err := true, errCode := e.code, errInfo := w } := by
  simp [State.accept, State.enterError, hb]

/-- Settles O23: of everything the engine's turn can do, only error entry ends with ERR = 1. -/
theorem errorsArePrecise : Obligations.ErrorsArePrecise := by
  intro s w t he hb hstep ht
  obtain rfl | ⟨-, hcomp⟩ := State.engineStep_completes (s := s.accept w) hstep
  · exact absurd (he.symm.trans ht) Bool.false_ne_true
  · obtain ⟨e, rfl⟩ := hcomp.eq_enterError he ht
    obtain ⟨hlo, hhi⟩ := e.code_bounds
    exact ⟨e.code, hlo, hhi, State.enterError_accept hb w e⟩

end Sys2Proof.Machine
end
